-- ==== Sys2Proof/Word.lean ====
section
/-! DEFINITION. The machine's plainest words: a byte, a frame of samples, and the rounding and
saturating arithmetic that the manual's conventions give (spec/00, Conventions). -/

namespace Sys2Proof

/-- A byte of a frame body, of a block's payload or of companded audio. -/
abbrev Byte := BitVec 8

/-- A 20 ms frame on the highway: 160 companded samples. -/
abbrev Frame := List Byte

/-- ceil(a / b), as the manual writes block counts and reported seconds (R62). -/
def ceilDiv (a b : Nat) : Nat := (a + (b - 1)) / b

/-- A 16-bit saturating counter raised by one (spec/00, Numbers, ranges and counters). -/
def sat16 (n : Nat) : Nat := if n < 65535 then n + 1 else n

/-- A 32-bit saturating counter raised by one. -/
def sat32 (n : Nat) : Nat := if n < 4294967295 then n + 1 else n

/-- A 24-bit saturating counter raised by one. -/
def sat24 (n : Nat) : Nat := if n < 16777215 then n + 1 else n

/-- A numeric setting brought to the nearest end of its range (spec/00, Clamped). -/
def clampTo (lo hi n : Nat) : Nat := max lo (min hi n)

end Sys2Proof
end

