-- ==== Sys2Proof/Config.lean ====
section
/-! DEFINITION. What the part fixes: the sizes of its tables and queues, and the values the manual
leaves open, as constants without a body. -/

namespace Sys2Proof.Config

/-- Blocks of the flash array (spec/00, Storage units). -/
def numBlocks : Nat := 262144
/-- Bytes of a block's payload (spec/00). -/
def blockBytes : Nat := 2560
/-- Records of the recording table (spec/01, 1.3). -/
def numRecordings : Nat := 65536
/-- The most references a recording may have (R10). -/
def maxRefs : Nat := 16383
/-- Boxes of the box table (R38). -/
def numBoxes : Nat := 16384
/-- Message entries of the pool (R45). -/
def numEntries : Nat := 131072
/-- The most entries and pending deposits of one box (R46). -/
def maxMessages : Nat := 48
/-- System prompt slots (R14). -/
def numPrompts : Nat := 512
/-- Distribution lists (R57). -/
def numLists : Nat := 256
/-- The most members of one list (R57). -/
def maxMembers : Nat := 4096
/-- Places of the shared member pool (R57). -/
def memberPool : Nat := 65536
/-- Cache lines (R19). -/
def numLines : Nat := 2048
/-- Entries of the cache wait queue (R27). -/
def waitQueueSize : Nat := 64
/-- The count of MODIFIED and WRITING lines from which write-backs go first (R30). -/
def writePressure : Nat := 1536
/-- Voice ports (R115). -/
def numPorts : Nat := 32
/-- Highway slots (spec/00). -/
def numSlots : Nat := 128
/-- Segments of a play list (R118). -/
def maxSegments : Nat := 16
/-- Frames of an interjection context stack (R122). -/
def maxStack : Nat := 3
/-- Frames of a capture queue (R151). -/
def captureQueueSize : Nat := 16
/-- Jobs of the job queue (R93). -/
def maxJobs : Nat := 8
/-- Slots of the in-flight table of the lamp line (R168). -/
def lampSlots : Nat := 8
/-- Complete frames of the receive queue (R177). -/
def receiveQueueSize : Nat := 8
/-- Unsent notices that the transmit FIFO may hold (R180). -/
def noticeQueueSize : Nat := 64
/-- The longest body of a control link frame (R184). -/
def maxBody : Nat := 1020
/-- Samples of a frame (spec/00). -/
def frameSamples : Nat := 160
/-- Frames of the call-progress tone (R83, R119). -/
def toneFrames : Nat := 25
/-- The remaining frames below which a box is short (R63). -/
def shortFrames : Nat := 250
/-- The fewest frames a kept recording has (R70). -/
def minFrames : Nat := 50

/-- FREE VALUE. Sample `i` of frame `k` of the call-progress tone: the manual gives the tone's
length and not its samples (R119). Assumption 7. -/
opaque toneSample : Nat → Nat → Byte

/-- FREE VALUE. The detail of BIND's STATE refusal, from the port's state code and its slot: the
manual says that it gives both and not how they stand in 16 bits (R116, R179). Assumption 8. -/
opaque bindStateDetail : Nat → Nat → Nat

end Sys2Proof.Config
end

