-- ==== Sys2Proof/Syntax.lean ====
section
/-! DEFINITION. The commands: one constructor of `Instr` for each row of spec/opcode_table.json.
A request carries its tag and the fields of its body, each as the number that travels (R185), so
that a code outside its list and a number outside its range can be said and refused. An event
carries what its sender gives: the port, the line, the shelf, the bytes of a frame, the end of a flash
operation. -/

namespace Sys2Proof

/-- A box named by index or by extension (R39). `unknown` is a form byte that is neither 0 nor 1;
it names no field (assumption 20). An extension is the list of its characters' codes (R185). -/
inductive BoxRef where
  | index (n : Nat)
  | ext (digits : List Nat)
  | unknown (form : Nat)
  deriving DecidableEq, Repr

/-- How a completion comes: the operation in flight has succeeded or failed, or it is the late
completion of an operation already abandoned after 50 ms (R31; assumption 21). -/
inductive FlashEnd where
  | succeeded
  | failed
  | late
  deriving DecidableEq, Repr

/-- A segment of a play list as it travels (R119). -/
inductive SegmentSpec where
  | message (box : BoxRef) (position start mark : Nat)
  | greeting (box : BoxRef) (slot : Nat)
  | prompt (slot : Nat)
  | recording (id start : Nat)
  | tone
  | silence (length : Nat)
  | unknown (kind : Nat)
  deriving DecidableEq, Repr

/-- The target of a RECORD request (R88). -/
inductive TargetSpec where
  | box (ext : List Nat) (urgent : Nat) (sender : Option (List Nat))
  | greeting (box : BoxRef) (slot : Nat)
  | prompt (slot : Nat)
  | list (list urgent : Nat)
  | unknown (code : Nat)
  deriving DecidableEq, Repr

/-- The scope of a LAMP REFRESH (R165). -/
inductive RefreshScope where
  | all
  | shelf (n : Nat)
  | box (box : BoxRef)
  | unknown (code : Nat)
  deriving DecidableEq, Repr

/-- The insertion of a TEST INSERT (R155). -/
inductive InsertSpec where
  | off
  | single
  | rate (k : Nat)
  | unknown (code : Nat)
  deriving DecidableEq, Repr

/-- The eight fields of a class profile as they travel (R44). -/
structure ProfileSpec where
  maxMessages : Nat
  quota : Nat
  maxMessage : Nat
  retainNew : Nat
  retainHeard : Nat
  retainKept : Nat
  coding : Nat
  urgentAllowed : Nat
  deriving DecidableEq, Repr

/-- The commands the part takes, one constructor for each row of spec/opcode_table.json. -/
inductive Instr where
  -- starting (R16, R17, R18)
  | powerOnColdStart (directoryKept : Bool)
  | warmRestartRecovery
  | formatRun
  -- control link events (R177, R178)
  | controlFrameReceived (bytes : List Byte)
  | frameByteTimeout
  | unknownKindRequest (tag kind : Nat) (body : List Byte)
  | transmitFrameDone
  -- requests
  | status (tag : Nat)
  | restart (tag : Nat)
  | format (tag : Nat)
  | noticeMask (tag mask : Nat)
  | blockQuery (tag block : Nat)
  | cacheQuery (tag line : Nat)
  | recordingInfo (tag id : Nat)
  | promptClear (tag slot : Nat)
  | boxAssign (tag : Nat) (ext : List Nat) (cls state : Nat)
  | boxSet (tag : Nat) (box : BoxRef) (cls state : Option Nat) (ext : Option (List Nat))
  | boxClear (tag : Nat) (box : BoxRef)
  | boxInfo (tag : Nat) (box : BoxRef) (clear : Nat)
  | profileRead (tag cls : Nat)
  | profileSet (tag cls : Nat) (fields : ProfileSpec)
  | list (tag : Nat) (box : BoxRef)
  | mark (tag : Nat) (box : BoxRef) (position state : Nat)
  | delete (tag : Nat) (box : BoxRef) (position : Nat)
  | forward (tag : Nat) (boxA : BoxRef) (position : Nat) (boxB : BoxRef) (urgent : Nat)
  | greetingClear (tag : Nat) (box : BoxRef) (slot : Nat)
  | absenceSet (tag : Nat) (box : BoxRef) (flag : Nat) (untilDay : Option Nat) (noDeposit : Nat)
  | trimSet (tag guard cap : Nat)
  | listCreate (tag list : Nat)
  | listInfo (tag list start count : Nat)
  | listDelete (tag list : Nat)
  | memberAdd (tag list : Nat) (box : BoxRef)
  | memberRemove (tag list : Nat) (box : BoxRef)
  | deliver (tag recording list urgent : Nat)
  | recall (tag recording : Nat)
  | jobCancel (tag job : Nat)
  | jobStatus (tag : Nat)
  | clockSet (tag day minute : Nat)
  | clockRead (tag : Nat)
  | answer (tag port : Nat) (ext : List Nat) (reason urgent : Nat) (caller : Option (List Nat))
      (endOnSilence : Nat)
  | record (tag port : Nat) (target : TargetSpec) (endOnSilence : Nat)
  | bind (tag port slot : Nat)
  | unbind (tag port : Nat)
  | play (tag port : Nat) (segments : List SegmentSpec)
  | interject (tag port : Nat) (segments : List SegmentSpec)
  | stop (tag port all : Nat)
  | release (tag port : Nat)
  | abort (tag port : Nat)
  | portReset (tag port : Nat)
  | portStatus (tag port : Nat)
  | playoutSet (tag port depth : Nat)
  | test (tag port mode n y seed clearCounts : Nat)
  | testInsert (tag port : Nat) (insertion : InsertSpec)
  | levelSet (tag : Nat) (thresholds : List Nat)
  | detectorSet (tag speechClass speechCount quietLength startTimeout : Nat)
  | rampSet (tag : Nat) (fadeIn fadeOut : List Nat)
  | voiceSettingsRead (tag : Nat)
  | lampMap (tag : Nat) (box : BoxRef) (shelf station : Nat)
  | lampUnmap (tag : Nat) (box : BoxRef)
  | lampSource (tag : Nat) (box : BoxRef) (source : Nat)
  | lampSet (tag slowOn slowOff fastOn fastOff fastForUrgent settle : Nat)
  | lampRefresh (tag : Nat) (scope : RefreshScope)
  | lampStatusBox (tag : Nat) (box : BoxRef)
  | lampStatusShelf (tag shelf : Nat)
  | lineSet (tag retryLimit : Nat)
  -- port events (R115, R124, R6, R138, R139, R67)
  | frameTime (received : List (Nat × Frame))
  | stopFadeEnd (port : Nat)
  | captureFrameStore (port : Nat)
  | detectorQuiet (port : Nat)
  | detectorStartTimeout (port : Nat)
  | captureLimitReached (port : Nat)
  -- flash events (R31 to R34)
  | fillCompletion (line : Nat) (ending : FlashEnd)
  | writeCompletion (line : Nat) (ending : FlashEnd)
  | flashOperationTimeout
  -- Job Unit and Retention Unit (R96, R106, R109)
  | jobStep
  | minuteTimerExpiry
  | sweepStep
  -- Lamp Unit and Lamp Line Interface (R161, R169 to R175)
  | settleTimerExpiry (box : Nat)
  | downLineFrameDone
  | ackTimerExpiry (shelf : Nat)
  | probeTimerExpiry (shelf : Nat)
  | pauseExpiry (shelf : Nat)
  | ackDone (shelf number : Nat)
  | ackNoStation (shelf number : Nat)
  | ackLampFault (shelf number : Nat)
  | shelfRestart (shelf number : Nat)
  | shelfPause (shelf number time : Nat)
  | stationFault (shelf number station : Nat)
  | upLineBadFrame (bytes : List Byte)
  | upLineByteTimeout
  -- the framer's length test (R177)
  | lengthFieldAbove1020 (bytes : List Byte)
  deriving DecidableEq, Repr

end Sys2Proof
end

