-- ==== Sys2Proof/WellFormed.lean ====
section
/-! DEFINITION. Which commands can be sent: each field of a request fits the width in which it
travels (R184, R185), and each event names something that exists. A command that is not well formed
still has a meaning; it is one no sender can produce. -/

namespace Sys2Proof

/-- An extension as it travels: at most six characters, each one byte (R184). -/
def extFits (e : List Nat) : Bool := e.length ≤ 6 && e.all (· < 256)

/-- A box named by a 2-byte index or by an extension (R185); an unknown form byte is not 0 or 1. -/
def BoxRef.fits : BoxRef → Bool
  | .index n => n < 65536
  | .ext e => extFits e
  | .unknown f => 2 ≤ f && f < 256

/-- A segment whose fields fit (R119, R185); an unknown kind byte is not one of the six. -/
def SegmentSpec.fits : SegmentSpec → Bool
  | .message b p st m => b.fits && p < 256 && st < 65536 && m < 256
  | .greeting b sl => b.fits && sl < 256
  | .prompt n => n < 65536
  | .recording id st => id < 65536 && st < 65536
  | .tone => true
  | .silence n => n < 65536
  | .unknown k => 6 ≤ k && k < 256

/-- A RECORD target whose fields fit (R88, R185). -/
def TargetSpec.fits : TargetSpec → Bool
  | .box e u sd => extFits e && u < 256 && sd.all extFits
  | .greeting b sl => b.fits && sl < 256
  | .prompt n => n < 65536
  | .list l u => l < 256 && u < 256
  | .unknown c => 4 ≤ c && c < 256

/-- A LAMP REFRESH scope whose fields fit (R165, R185). -/
def RefreshScope.fits : RefreshScope → Bool
  | .all => true
  | .shelf n => n < 256
  | .box b => b.fits
  | .unknown c => 3 ≤ c && c < 256

/-- A TEST INSERT insertion whose fields fit (R155, R185). -/
def InsertSpec.fits : InsertSpec → Bool
  | .off => true
  | .single => true
  | .rate k => k < 256
  | .unknown c => 3 ≤ c && c < 256

/-- The profile fields fit their widths (R44, R185). -/
def ProfileSpec.fits (p : ProfileSpec) : Bool :=
  p.maxMessages < 256 && p.quota < 65536 && p.maxMessage < 65536 && p.retainNew < 65536 &&
  p.retainHeard < 65536 && p.retainKept < 65536 && p.coding < 256 && p.urgentAllowed < 256

/-- The frames of a frame time: one whole frame for a slot, no slot twice (R115). -/
def framesFit (rx : List (Nat × Frame)) : Bool :=
  rx.all (fun e => e.1 < Config.numSlots && e.2.length == Config.frameSamples) &&
  decide ((rx.map Prod.fst).Nodup)

/-- A shelf number of the lamp line, 1 to 64 (R168). -/
def isShelf (n : Nat) : Bool := 1 ≤ n && n ≤ 64

/-- A command that its sender can produce. -/
def Instr.wellFormed : Instr → Bool
  | .powerOnColdStart _ | .warmRestartRecovery | .formatRun => true
  | .controlFrameReceived _ | .frameByteTimeout | .transmitFrameDone => true
  | .unknownKindRequest t k b => t < 256 && k < 256 && b.length ≤ Config.maxBody
  | .status t | .restart t | .format t | .jobStatus t | .clockRead t | .voiceSettingsRead t =>
      t < 256
  | .noticeMask t m => t < 256 && m < 256
  | .blockQuery t b => t < 256 && b < 4294967296
  | .cacheQuery t l => t < 256 && l < 65536
  | .recordingInfo t r => t < 256 && r < 65536
  | .promptClear t n => t < 256 && n < 65536
  | .boxAssign t e c st => t < 256 && extFits e && c < 256 && st < 256
  | .boxSet t b c st e => t < 256 && b.fits && c.all (· < 256) && st.all (· < 256) && e.all extFits
  | .boxClear t b | .list t b | .lampUnmap t b | .lampStatusBox t b => t < 256 && b.fits
  | .boxInfo t b c => t < 256 && b.fits && c < 256
  | .profileRead t c => t < 256 && c < 256
  | .profileSet t c p => t < 256 && c < 256 && p.fits
  | .mark t b p st => t < 256 && b.fits && p < 256 && st < 256
  | .delete t b p => t < 256 && b.fits && p < 256
  | .forward t a p b u => t < 256 && a.fits && p < 256 && b.fits && u < 256
  | .greetingClear t b sl => t < 256 && b.fits && sl < 256
  | .absenceSet t b f u n => t < 256 && b.fits && f < 256 && u.all (· < 65536) && n < 256
  | .trimSet t g c => t < 256 && g < 256 && c < 65536
  | .listCreate t l | .listDelete t l => t < 256 && l < 256
  | .listInfo t l st n => t < 256 && l < 256 && st < 4294967296 && n < 65536
  | .memberAdd t l b | .memberRemove t l b => t < 256 && l < 256 && b.fits
  | .deliver t r l u => t < 256 && r < 65536 && l < 256 && u < 256
  | .recall t r => t < 256 && r < 65536
  | .jobCancel t j => t < 256 && j < 256
  | .clockSet t d m => t < 256 && d < 65536 && m < 65536
  | .answer t p e r u c s => t < 256 && p < 256 && extFits e && r < 256 && u < 256 &&
      c.all extFits && s < 256
  | .record t p tg s => t < 256 && p < 256 && tg.fits && s < 256
  | .bind t p sl => t < 256 && p < 256 && sl < 256
  | .unbind t p | .release t p | .abort t p | .portReset t p | .portStatus t p =>
      t < 256 && p < 256
  | .play t p sg | .interject t p sg => t < 256 && p < 256 && sg.length < 256 && sg.all (·.fits)
  | .stop t p a => t < 256 && p < 256 && a < 256
  | .playoutSet t p d => t < 256 && p < 256 && d < 4294967296
  | .test t p m n y sd c => t < 256 && p < 256 && m < 256 && n < 256 && y < 4294967296 &&
      sd < 4294967296 && c < 256
  | .testInsert t p x => t < 256 && p < 256 && x.fits
  | .levelSet t th => t < 256 && th.length == 15 && th.all (· < 65536)
  | .detectorSet t a b c d => t < 256 && a < 256 && b < 256 && c < 65536 && d < 65536
  | .rampSet t a b => t < 256 && a.length == 8 && b.length == 8 && a.all (· < 65536) &&
      b.all (· < 65536)
  | .lampMap t b sh st => t < 256 && b.fits && sh < 256 && st < 256
  | .lampSource t b sc => t < 256 && b.fits && sc < 256
  | .lampSet t a b c d f st => t < 256 && a < 256 && b < 256 && c < 256 && d < 256 && f < 256 &&
      st < 256
  | .lampRefresh t sc => t < 256 && sc.fits
  | .lampStatusShelf t sh => t < 256 && sh < 256
  | .lineSet t n => t < 256 && n < 256
  | .frameTime rx => framesFit rx
  | .stopFadeEnd p | .captureFrameStore p | .detectorQuiet p | .detectorStartTimeout p
  | .captureLimitReached p => p < Config.numPorts
  | .fillCompletion l _ | .writeCompletion l _ => l < Config.numLines
  | .flashOperationTimeout | .jobStep | .minuteTimerExpiry | .sweepStep => true
  | .settleTimerExpiry b => b < Config.numBoxes
  | .downLineFrameDone | .upLineByteTimeout => true
  | .ackTimerExpiry sh | .probeTimerExpiry sh | .pauseExpiry sh => isShelf sh
  | .ackDone sh n | .ackNoStation sh n | .ackLampFault sh n | .shelfRestart sh n =>
      isShelf sh && n < 8
  | .shelfPause sh n t => isShelf sh && n < 8 && t < 256
  | .stationFault sh n st => isShelf sh && n < 8 && st < 256
  | .upLineBadFrame _ => true
  | .lengthFieldAbove1020 _ => true

end Sys2Proof
end

