-- ==== Sys2Proof/Decode.lean ====
section
/-! DEFINITION. The bytes of a request's body: `parseRequest` reads them and `requestBody` writes
them, both from R184 and R185. The opcode table gives its rows no bits, so no table word spells a
command and `decodeTableWord` answers none. -/

namespace Sys2Proof

/-- Why a body gives no request: its length does not suit the kind (R178 test 3), or a code or
count that decides the widths of later fields lies outside what the request allows. -/
inductive BodyFault where
  | length
  | range
  deriving DecidableEq, Repr

/-- A reader of a body's fields, in the order in which they travel. -/
abbrev BodyReader := StateT (List Byte) (Except BodyFault)

/-- One byte. -/
def readByte : BodyReader Nat := fun bs =>
  match bs with
  | [] => .error .length
  | b :: rest => .ok (b.toNat, rest)

/-- Two bytes, little-endian (R184). -/
def readHalf : BodyReader Nat := do
  let a ← readByte
  let b ← readByte
  return a + 256 * b

/-- Four bytes, little-endian (R184). -/
def readWord : BodyReader Nat := do
  let a ← readHalf
  let b ← readHalf
  return a + 65536 * b

/-- Items read one after another. -/
def readMany {α : Type} (item : BodyReader α) : Nat → BodyReader (List α)
  | 0 => return []
  | n + 1 => do
    let a ← item
    let rest ← readMany item n
    return a :: rest

/-- An extension: a digit count and six digit bytes, of which the first count are used (R184). A
count above six keeps its length, so that R39 refuses it (assumption 20). -/
def readExt : BodyReader (List Nat) := do
  let n ← readByte
  let ds ← readMany readByte 6
  return (ds ++ List.replicate (n - 6) 0).take n

/-- An optional field: a presence byte, 0 or 1, then the value (R184). -/
def readOpt {α : Type} (item : BodyReader α) : BodyReader (Option α) := do
  let p ← readByte
  match p with
  | 0 => return none
  | 1 => do
    let a ← item
    return some a
  | _ => throw BodyFault.range

/-- A box named by index or by extension (R185). -/
def readBox : BodyReader BoxRef := do
  let f ← readByte
  match f with
  | 0 => do
    let n ← readHalf
    return BoxRef.index n
  | 1 => do
    let e ← readExt
    return BoxRef.ext e
  | _ => return BoxRef.unknown f

/-- A segment: its kind and the fields the kind names (R119, R185). -/
def readSegment : BodyReader SegmentSpec := do
  let k ← readByte
  match k with
  | 0 => do
    let b ← readBox
    let p ← readByte
    let st ← readHalf
    let m ← readByte
    return SegmentSpec.message b p st m
  | 1 => do
    let b ← readBox
    let sl ← readByte
    return SegmentSpec.greeting b sl
  | 2 => do
    let n ← readHalf
    return SegmentSpec.prompt n
  | 3 => do
    let r ← readHalf
    let st ← readHalf
    return SegmentSpec.recording r st
  | 4 => return SegmentSpec.tone
  | 5 => do
    let n ← readHalf
    return SegmentSpec.silence n
  | _ => return SegmentSpec.unknown k

/-- The segments of a PLAY or INTERJECT. A count outside 1 to 16 is left to the request's own
rules, which refuse it with RANGE (R178 test 3); the body is then not held against a length that such a
count would ask, so that RANGE comes before LENGTH (DEDUCED: assumption 67). -/
def readSegments : BodyReader (List SegmentSpec) := do
  let n ← readByte
  if 1 ≤ n ∧ n ≤ Config.maxSegments then readMany readSegment n else throw BodyFault.range

/-- A RECORD target: its code and the fields the code names (R88, R185). -/
def readTarget : BodyReader TargetSpec := do
  let c ← readByte
  match c with
  | 0 => do
    let e ← readExt
    let u ← readByte
    let sd ← readOpt readExt
    return TargetSpec.box e u sd
  | 1 => do
    let b ← readBox
    let sl ← readByte
    return TargetSpec.greeting b sl
  | 2 => do
    let n ← readHalf
    return TargetSpec.prompt n
  | 3 => do
    let l ← readByte
    let u ← readByte
    return TargetSpec.list l u
  | _ => return TargetSpec.unknown c

/-- A LAMP REFRESH scope (R165, R185). -/
def readScope : BodyReader RefreshScope := do
  let c ← readByte
  match c with
  | 0 => return RefreshScope.all
  | 1 => do
    let n ← readByte
    return RefreshScope.shelf n
  | 2 => do
    let b ← readBox
    return RefreshScope.box b
  | _ => return RefreshScope.unknown c

/-- A TEST INSERT insertion (R155, R185). -/
def readInsert : BodyReader InsertSpec := do
  let c ← readByte
  match c with
  | 0 => return InsertSpec.off
  | 1 => return InsertSpec.single
  | 2 => do
    let k ← readByte
    return InsertSpec.rate k
  | _ => return InsertSpec.unknown c

/-- The eight fields of PROFILE SET, each in the fewest bytes that hold its range (R44, R185). -/
def readProfile : BodyReader ProfileSpec := do
  let a ← readByte
  let b ← readHalf
  let c ← readHalf
  let d ← readHalf
  let e ← readHalf
  let f ← readHalf
  let g ← readByte
  let h ← readByte
  return ⟨a, b, c, d, e, f, g, h⟩

/-- The reader of each request kind's body (R185); none for a kind that names no request. A number
with a stated range travels in the fewest bytes that hold it; LIST INFO's start, PLAYOUT SET's depth
and TEST's tap have no fixed upper bound and travel in 4 (assumption 19). -/
def requestReader (kind t : Nat) : Option (BodyReader Instr) :=
  match kind with
  | 0x01 => some (return Instr.status t)
  | 0x02 => some (return Instr.restart t)
  | 0x03 => some (return Instr.format t)
  | 0x04 => some do return Instr.noticeMask t (← readByte)
  | 0x05 => some do return Instr.blockQuery t (← readWord)
  | 0x06 => some do return Instr.cacheQuery t (← readHalf)
  | 0x07 => some do return Instr.recordingInfo t (← readHalf)
  | 0x08 => some do return Instr.promptClear t (← readHalf)
  | 0x10 => some do return Instr.boxAssign t (← readExt) (← readByte) (← readByte)
  | 0x11 => some do
      return Instr.boxSet t (← readBox) (← readOpt readByte) (← readOpt readByte) (← readOpt readExt)
  | 0x12 => some do return Instr.boxClear t (← readBox)
  | 0x13 => some do return Instr.boxInfo t (← readBox) (← readByte)
  | 0x14 => some do return Instr.profileRead t (← readByte)
  | 0x15 => some do return Instr.profileSet t (← readByte) (← readProfile)
  | 0x16 => some do return Instr.list t (← readBox)
  | 0x17 => some do return Instr.mark t (← readBox) (← readByte) (← readByte)
  | 0x18 => some do return Instr.delete t (← readBox) (← readByte)
  | 0x19 => some do
      return Instr.forward t (← readBox) (← readByte) (← readBox) (← readByte)
  | 0x1A => some do return Instr.greetingClear t (← readBox) (← readByte)
  | 0x1B => some do
      return Instr.absenceSet t (← readBox) (← readByte) (← readOpt readHalf) (← readByte)
  | 0x1C => some do return Instr.trimSet t (← readByte) (← readHalf)
  | 0x20 => some do return Instr.listCreate t (← readByte)
  | 0x21 => some do return Instr.listInfo t (← readByte) (← readWord) (← readHalf)
  | 0x22 => some do return Instr.listDelete t (← readByte)
  | 0x23 => some do return Instr.memberAdd t (← readByte) (← readBox)
  | 0x24 => some do return Instr.memberRemove t (← readByte) (← readBox)
  | 0x28 => some do return Instr.deliver t (← readHalf) (← readByte) (← readByte)
  | 0x29 => some do return Instr.recall t (← readHalf)
  | 0x2A => some do return Instr.jobCancel t (← readByte)
  | 0x2B => some (return Instr.jobStatus t)
  | 0x30 => some do return Instr.clockSet t (← readHalf) (← readHalf)
  | 0x31 => some (return Instr.clockRead t)
  | 0x38 => some do
      return Instr.answer t (← readByte) (← readExt) (← readByte) (← readByte) (← readOpt readExt)
        (← readByte)
  | 0x39 => some do return Instr.record t (← readByte) (← readTarget) (← readByte)
  | 0x40 => some do return Instr.bind t (← readByte) (← readByte)
  | 0x41 => some do return Instr.unbind t (← readByte)
  | 0x42 => some do return Instr.play t (← readByte) (← readSegments)
  | 0x43 => some do return Instr.interject t (← readByte) (← readSegments)
  | 0x44 => some do return Instr.stop t (← readByte) (← readByte)
  | 0x45 => some do return Instr.release t (← readByte)
  | 0x46 => some do return Instr.abort t (← readByte)
  | 0x47 => some do return Instr.portReset t (← readByte)
  | 0x48 => some do return Instr.portStatus t (← readByte)
  | 0x49 => some do return Instr.playoutSet t (← readByte) (← readWord)
  | 0x4A => some do
      return Instr.test t (← readByte) (← readByte) (← readByte) (← readWord) (← readWord)
        (← readByte)
  | 0x4B => some do return Instr.testInsert t (← readByte) (← readInsert)
  | 0x50 => some do return Instr.levelSet t (← readMany readHalf 15)
  | 0x51 => some do
      return Instr.detectorSet t (← readByte) (← readByte) (← readHalf) (← readHalf)
  | 0x52 => some do return Instr.rampSet t (← readMany readHalf 8) (← readMany readHalf 8)
  | 0x53 => some (return Instr.voiceSettingsRead t)
  | 0x58 => some do return Instr.lampMap t (← readBox) (← readByte) (← readByte)
  | 0x59 => some do return Instr.lampUnmap t (← readBox)
  | 0x5A => some do return Instr.lampSource t (← readBox) (← readByte)
  | 0x5B => some do
      return Instr.lampSet t (← readByte) (← readByte) (← readByte) (← readByte) (← readByte)
        (← readByte)
  | 0x5C => some do return Instr.lampRefresh t (← readScope)
  | 0x5D => some do return Instr.lampStatusBox t (← readBox)
  | 0x5E => some do return Instr.lampStatusShelf t (← readByte)
  | 0x5F => some do return Instr.lineSet t (← readByte)
  | _ => none

/-- Does the kind byte name a request (R178 test 2, R185)? -/
def isRequestKind (kind : Nat) : Bool := (requestReader kind 0).isSome

/-- The request a body spells, read to its last byte (R178 test 3, R185). -/
def parseRequest (kind tag : Nat) (body : List Byte) : Except BodyFault Instr :=
  match requestReader kind tag with
  | none => .error .range
  | some r =>
    match r body with
    | .error e => .error e
    | .ok (i, []) => .ok i
    | .ok (_, _ :: _) => .error .length

/-- One byte of a number. -/
def byteOf (n : Nat) : Byte := BitVec.ofNat 8 n

/-- A number in `width` bytes, little-endian (R184). -/
def leBytes : (width n : Nat) → List Byte
  | 0, _ => []
  | w + 1, n => byteOf n :: leBytes w (n / 256)

/-- An extension as it travels: its digit count and six digit bytes (R184). -/
def extBytes (e : List Nat) : List Byte :=
  byteOf e.length :: ((e ++ List.replicate 6 0).take 6).map byteOf

/-- An optional field as it travels (R184). -/
def optBytes {α : Type} (f : α → List Byte) : Option α → List Byte
  | none => [byteOf 0]
  | some a => byteOf 1 :: f a

/-- A box as it travels (R185). -/
def boxBytes : BoxRef → List Byte
  | .index n => byteOf 0 :: leBytes 2 n
  | .ext e => byteOf 1 :: extBytes e
  | .unknown f => [byteOf f]

/-- A segment as it travels (R119, R185). -/
def segmentBytes : SegmentSpec → List Byte
  | .message b p st m => byteOf 0 :: boxBytes b ++ leBytes 1 p ++ leBytes 2 st ++ leBytes 1 m
  | .greeting b sl => byteOf 1 :: boxBytes b ++ leBytes 1 sl
  | .prompt n => byteOf 2 :: leBytes 2 n
  | .recording r st => byteOf 3 :: leBytes 2 r ++ leBytes 2 st
  | .tone => [byteOf 4]
  | .silence n => byteOf 5 :: leBytes 2 n
  | .unknown k => [byteOf k]

/-- A RECORD target as it travels (R88, R185). -/
def targetBytes : TargetSpec → List Byte
  | .box e u sd => byteOf 0 :: extBytes e ++ leBytes 1 u ++ optBytes extBytes sd
  | .greeting b sl => byteOf 1 :: boxBytes b ++ leBytes 1 sl
  | .prompt n => byteOf 2 :: leBytes 2 n
  | .list l u => byteOf 3 :: leBytes 1 l ++ leBytes 1 u
  | .unknown c => [byteOf c]

/-- A LAMP REFRESH scope as it travels (R165, R185). -/
def scopeBytes : RefreshScope → List Byte
  | .all => [byteOf 0]
  | .shelf n => byteOf 1 :: leBytes 1 n
  | .box b => byteOf 2 :: boxBytes b
  | .unknown c => [byteOf c]

/-- A TEST INSERT insertion as it travels (R155, R185). -/
def insertBytes : InsertSpec → List Byte
  | .off => [byteOf 0]
  | .single => [byteOf 1]
  | .rate k => byteOf 2 :: leBytes 1 k
  | .unknown c => [byteOf c]

/-- The fields of PROFILE SET as they travel (R44, R185). -/
def profileBytes (p : ProfileSpec) : List Byte :=
  leBytes 1 p.maxMessages ++ leBytes 2 p.quota ++ leBytes 2 p.maxMessage ++ leBytes 2 p.retainNew ++
  leBytes 2 p.retainHeard ++ leBytes 2 p.retainKept ++ leBytes 1 p.coding ++
  leBytes 1 p.urgentAllowed

/-- A request's kind, tag and body (R184, R185); none for a command that is no request. -/
def requestFrame : Instr → Option (Nat × Nat × List Byte)
  | .status t => some (0x01, t, [])
  | .restart t => some (0x02, t, [])
  | .format t => some (0x03, t, [])
  | .noticeMask t m => some (0x04, t, leBytes 1 m)
  | .blockQuery t b => some (0x05, t, leBytes 4 b)
  | .cacheQuery t l => some (0x06, t, leBytes 2 l)
  | .recordingInfo t r => some (0x07, t, leBytes 2 r)
  | .promptClear t n => some (0x08, t, leBytes 2 n)
  | .boxAssign t e c st => some (0x10, t, extBytes e ++ leBytes 1 c ++ leBytes 1 st)
  | .boxSet t b c st e => some (0x11, t,
      boxBytes b ++ optBytes (leBytes 1) c ++ optBytes (leBytes 1) st ++ optBytes extBytes e)
  | .boxClear t b => some (0x12, t, boxBytes b)
  | .boxInfo t b c => some (0x13, t, boxBytes b ++ leBytes 1 c)
  | .profileRead t c => some (0x14, t, leBytes 1 c)
  | .profileSet t c p => some (0x15, t, leBytes 1 c ++ profileBytes p)
  | .list t b => some (0x16, t, boxBytes b)
  | .mark t b p st => some (0x17, t, boxBytes b ++ leBytes 1 p ++ leBytes 1 st)
  | .delete t b p => some (0x18, t, boxBytes b ++ leBytes 1 p)
  | .forward t a p b u => some (0x19, t, boxBytes a ++ leBytes 1 p ++ boxBytes b ++ leBytes 1 u)
  | .greetingClear t b sl => some (0x1A, t, boxBytes b ++ leBytes 1 sl)
  | .absenceSet t b f u n => some (0x1B, t,
      boxBytes b ++ leBytes 1 f ++ optBytes (leBytes 2) u ++ leBytes 1 n)
  | .trimSet t g c => some (0x1C, t, leBytes 1 g ++ leBytes 2 c)
  | .listCreate t l => some (0x20, t, leBytes 1 l)
  | .listInfo t l st n => some (0x21, t, leBytes 1 l ++ leBytes 4 st ++ leBytes 2 n)
  | .listDelete t l => some (0x22, t, leBytes 1 l)
  | .memberAdd t l b => some (0x23, t, leBytes 1 l ++ boxBytes b)
  | .memberRemove t l b => some (0x24, t, leBytes 1 l ++ boxBytes b)
  | .deliver t r l u => some (0x28, t, leBytes 2 r ++ leBytes 1 l ++ leBytes 1 u)
  | .recall t r => some (0x29, t, leBytes 2 r)
  | .jobCancel t j => some (0x2A, t, leBytes 1 j)
  | .jobStatus t => some (0x2B, t, [])
  | .clockSet t d m => some (0x30, t, leBytes 2 d ++ leBytes 2 m)
  | .clockRead t => some (0x31, t, [])
  | .answer t p e r u c s => some (0x38, t,
      leBytes 1 p ++ extBytes e ++ leBytes 1 r ++ leBytes 1 u ++ optBytes extBytes c ++ leBytes 1 s)
  | .record t p tg s => some (0x39, t, leBytes 1 p ++ targetBytes tg ++ leBytes 1 s)
  | .bind t p sl => some (0x40, t, leBytes 1 p ++ leBytes 1 sl)
  | .unbind t p => some (0x41, t, leBytes 1 p)
  | .play t p sg => some (0x42, t, leBytes 1 p ++ leBytes 1 sg.length ++ sg.flatMap segmentBytes)
  | .interject t p sg => some (0x43, t,
      leBytes 1 p ++ leBytes 1 sg.length ++ sg.flatMap segmentBytes)
  | .stop t p a => some (0x44, t, leBytes 1 p ++ leBytes 1 a)
  | .release t p => some (0x45, t, leBytes 1 p)
  | .abort t p => some (0x46, t, leBytes 1 p)
  | .portReset t p => some (0x47, t, leBytes 1 p)
  | .portStatus t p => some (0x48, t, leBytes 1 p)
  | .playoutSet t p d => some (0x49, t, leBytes 1 p ++ leBytes 4 d)
  | .test t p m n y sd c => some (0x4A, t,
      leBytes 1 p ++ leBytes 1 m ++ leBytes 1 n ++ leBytes 4 y ++ leBytes 4 sd ++ leBytes 1 c)
  | .testInsert t p x => some (0x4B, t, leBytes 1 p ++ insertBytes x)
  | .levelSet t th => some (0x50, t, th.flatMap (leBytes 2))
  | .detectorSet t a b c d => some (0x51, t,
      leBytes 1 a ++ leBytes 1 b ++ leBytes 2 c ++ leBytes 2 d)
  | .rampSet t a b => some (0x52, t, a.flatMap (leBytes 2) ++ b.flatMap (leBytes 2))
  | .voiceSettingsRead t => some (0x53, t, [])
  | .lampMap t b sh st => some (0x58, t, boxBytes b ++ leBytes 1 sh ++ leBytes 1 st)
  | .lampUnmap t b => some (0x59, t, boxBytes b)
  | .lampSource t b sc => some (0x5A, t, boxBytes b ++ leBytes 1 sc)
  | .lampSet t a b c d f st => some (0x5B, t,
      leBytes 1 a ++ leBytes 1 b ++ leBytes 1 c ++ leBytes 1 d ++ leBytes 1 f ++ leBytes 1 st)
  | .lampRefresh t sc => some (0x5C, t, scopeBytes sc)
  | .lampStatusBox t b => some (0x5D, t, boxBytes b)
  | .lampStatusShelf t sh => some (0x5E, t, leBytes 1 sh)
  | .lineSet t n => some (0x5F, t, leBytes 1 n)
  | .powerOnColdStart _ | .warmRestartRecovery | .formatRun | .controlFrameReceived _
  | .frameByteTimeout | .unknownKindRequest _ _ _ | .transmitFrameDone | .frameTime _
  | .stopFadeEnd _ | .captureFrameStore _ | .detectorQuiet _ | .detectorStartTimeout _
  | .captureLimitReached _ | .fillCompletion _ _ | .writeCompletion _ _ | .flashOperationTimeout
  | .jobStep | .minuteTimerExpiry | .sweepStep | .settleTimerExpiry _ | .downLineFrameDone
  | .ackTimerExpiry _ | .probeTimerExpiry _ | .pauseExpiry _ | .ackDone _ _ | .ackNoStation _ _
  | .ackLampFault _ _ | .shelfRestart _ _ | .shelfPause _ _ _ | .stationFault _ _ _
  | .upLineBadFrame _ | .upLineByteTimeout | .lengthFieldAbove1020 _ => none

/-- The command a table word spells. spec/opcode_table.json gives no row any bits ("fields" is
empty in all 91), so no word spells one. -/
def decodeTableWord (_nbits _w : Nat) : Option Instr := none

end Sys2Proof
end

