-- ==== Sys2Proof/Machine/Table.lean ====
section
/-! DEFINITION. The two stores the Directory's records are kept in: a table of rows by number, in
one canonical form (numbers strictly rising; where the table has a default, no row equal to it), so
that equal contents are equal data; and the free pool, a FIFO of block numbers kept as runs of
consecutive numbers, so that a full pool of 262,144 blocks is one run. -/

namespace Sys2Proof.Machine

/-- Rows by number, numbers strictly rising. -/
structure Table (α : Type) where
  rows : List (Nat × α)
  deriving DecidableEq, Repr

/-- The row numbered `k` in a list of rows. -/
def rowFind {α : Type} : List (Nat × α) → Nat → Option α
  | [], _ => none
  | (a, v) :: rest, k => if a = k then some v else rowFind rest k

/-- The rows with the row numbered `k` holding `v`, at its place. -/
def rowPut {α : Type} : List (Nat × α) → Nat → α → List (Nat × α)
  | [], k, v => [(k, v)]
  | (a, w) :: rest, k, v =>
    if k < a then (k, v) :: (a, w) :: rest
    else if k = a then (k, v) :: rest
    else (a, w) :: rowPut rest k v

/-- The rows without the row numbered `k`. -/
def rowDrop {α : Type} (rows : List (Nat × α)) (k : Nat) : List (Nat × α) :=
  rows.filter (fun r => r.1 != k)

/-- The table with no row. -/
def Table.empty {α : Type} : Table α := ⟨[]⟩

/-- The row numbered `k`, if there is one. -/
def Table.find {α : Type} (t : Table α) (k : Nat) : Option α := rowFind t.rows k

/-- The row numbered `k`, or what an unlisted row reads as. -/
def Table.read {α : Type} (d : α) (t : Table α) (k : Nat) : α := (t.find k).getD d

/-- `t` with `v` in row `k`. -/
def Table.put {α : Type} (t : Table α) (k : Nat) (v : α) : Table α := ⟨rowPut t.rows k v⟩

/-- `t` without row `k`. -/
def Table.drop {α : Type} (t : Table α) (k : Nat) : Table α := ⟨rowDrop t.rows k⟩

/-- `t` with `v` in row `k`; a row equal to what an unlisted row reads as is not listed. -/
def Table.write {α : Type} [DecidableEq α] (d : α) (t : Table α) (k : Nat) (v : α) : Table α :=
  if v = d then t.drop k else t.put k v

/-- The numbers of the listed rows, rising. -/
def Table.keys {α : Type} (t : Table α) : List Nat := t.rows.map Prod.fst

/-- The number of listed rows that satisfy `p`. -/
def Table.count {α : Type} (t : Table α) (p : α → Bool) : Nat := (t.rows.filter (fun r => p r.2)).length

/-- The number of the first listed row that satisfies `p`. -/
def Table.search {α : Type} (t : Table α) (p : α → Bool) : Option Nat :=
  (t.rows.find? (fun r => p r.2)).map Prod.fst

/-- The numbers of the listed rows that satisfy `p`, rising. -/
def Table.select {α : Type} (t : Table α) (p : α → Bool) : List Nat :=
  (t.rows.filter (fun r => p r.2)).map Prod.fst

/-- Row numbers strictly rise. -/
def rowsRise : List Nat → Bool
  | [] => true
  | [_] => true
  | a :: b :: rest => a < b && rowsRise (b :: rest)

/-- The canonical form of a table without a default: row numbers strictly rise. -/
def Table.sorted {α : Type} (t : Table α) : Bool := rowsRise t.keys

/-- The canonical form of a table with default `d`: row numbers strictly rise and no row is `d`. -/
def Table.wf {α : Type} [DecidableEq α] (d : α) (t : Table α) : Bool :=
  t.sorted && t.rows.all (fun r => decide (r.2 ≠ d))

/-- The least number from `k` on, within `fuel` numbers, that satisfies `p`. -/
def leastFrom (p : Nat → Bool) : (fuel k : Nat) → Option Nat
  | 0, _ => none
  | fuel + 1, k => if p k then some k else leastFrom p fuel (k + 1)

/-- The lowest number below `n` with no row: the index a new record takes. -/
def Table.lowestFree {α : Type} (t : Table α) (n : Nat) : Option Nat :=
  leastFrom (fun k => (t.find k).isNone) n 0

/-- Consecutive block numbers of the free pool, from `first` on, `count` of them. -/
structure Run where
  first : Nat
  count : Nat
  deriving DecidableEq, Repr

/-- The free pool: a FIFO of block numbers, kept as runs (R2). -/
structure Pool where
  runs : List Run
  deriving DecidableEq, Repr

/-- The block numbers of a run, in order. -/
def Run.blocks (r : Run) : List Nat := (List.range r.count).map (r.first + ·)

/-- The block numbers of the pool, head first. -/
def Pool.blocks (p : Pool) : List Nat := p.runs.flatMap Run.blocks

/-- The length of the runs. -/
def runsSize : List Run → Nat
  | [] => 0
  | r :: rest => r.count + runsSize rest

/-- The free count: the length of the pool (R2). -/
def Pool.size (p : Pool) : Nat := runsSize p.runs

/-- The head block and the runs behind it. Runs of no blocks are passed over. -/
def takeRun : List Run → Option (Nat × List Run)
  | [] => none
  | ⟨_, 0⟩ :: rest => takeRun rest
  | ⟨f, 1⟩ :: rest => some (f, rest)
  | ⟨f, n + 2⟩ :: rest => some (f, ⟨f + 1, n + 1⟩ :: rest)

/-- Take the block at the pool head (R2). -/
def Pool.take (p : Pool) : Option (Nat × Pool) := (takeRun p.runs).map fun r => (r.1, ⟨r.2⟩)

/-- Block `b` behind the last of the runs, joined to the last run where it follows on. -/
def appendRun : List Run → Nat → List Run
  | [], b => [⟨b, 1⟩]
  | [r], b => if r.first + r.count = b then [⟨r.first, r.count + 1⟩] else [r, ⟨b, 1⟩]
  | r :: rest, b => r :: appendRun rest b

/-- Append block `b` at the pool tail (R2). -/
def Pool.append (p : Pool) (b : Nat) : Pool := ⟨appendRun p.runs b⟩

/-- The pool with block `b` at the tail for each block of `bs`, in order. -/
def Pool.appendAll (p : Pool) (bs : List Nat) : Pool := bs.foldl Pool.append p

/-- The pool of the blocks `first` to `first + count - 1` in ascending order. -/
def Pool.range (first count : Nat) : Pool := if count = 0 then ⟨[]⟩ else ⟨[⟨first, count⟩]⟩

/-- The blocks from `from_` up to `limit`, in ascending order, without those of `skip` (rising). -/
def runsWithout (limit : Nat) : (start : Nat) → (skip : List Nat) → List Run
  | start, [] => if start < limit then [⟨start, limit - start⟩] else []
  | start, b :: rest =>
    if start < b then ⟨start, b - start⟩ :: runsWithout limit (b + 1) rest
    else runsWithout limit (max start (b + 1)) rest

/-- The pool of every block of the array in ascending order, without the blocks of `skip`, which
rise (R16, R18). -/
def Pool.allBut (skip : List Nat) : Pool :=
  ⟨runsWithout Config.numBlocks 0 (skip.filter (· < Config.numBlocks))⟩

end Sys2Proof.Machine
end

