-- ==== Sys2Proof/Machine/State.lean ====
section
/-! DEFINITION. The state of the module, as plain data, and its value right after reset: a cold
start that found the directory memory lost (R16, R37, R130, R167, R168, R183; assumption 1). -/

namespace Sys2Proof.Machine

/-! ## Recordings and blocks (spec/01) -/

/-- The coding of a recording, fixed at open (spec/00, R66). -/
inductive Coding where
  | full
  | compact
  deriving DecidableEq, Repr

/-- The status of a block that is not FREE; an unlisted block is FREE (spec/01, 1.1). The next link
is absent at the END of a chain. -/
inductive BlockStatus where
  | chained (owner : Nat) (next : Option Nat)
  | draining
  | retired
  deriving DecidableEq, Repr

/-- The lifecycle of a recording; an unlisted record is EMPTY (spec/01, 1.3). -/
inductive RecState where
  | opened
  | sealing
  | sealed
  deriving DecidableEq, Repr

/-- The greeting slots of a box, in the order of R38. -/
inductive GreetingSlot where
  | standard
  | busy
  | absence
  | name
  deriving DecidableEq, Repr

/-- What a recording is for (spec/01, 1.3). -/
inductive Purpose where
  | box (box : Nat)
  | greeting (box : Nat) (slot : GreetingSlot)
  | prompt (slot : Nat)
  | list (list : Nat) (urgent : Bool)
  deriving DecidableEq, Repr

/-- A day and a minute of the day clock (R105). -/
structure Clock where
  day : Nat
  minute : Nat
  deriving DecidableEq, Repr

/-- A record of the recording table (spec/01, 1.3). -/
structure Recording where
  state : RecState
  coding : Coding
  head : Nat
  tail : Nat
  blocks : Nat
  frames : Nat
  limit : Nat
  references : Nat
  peakClass : Nat
  trimmed : Nat
  created : Option Clock
  origin : Option (List Nat)
  purpose : Purpose
  cut : Bool
  discard : Bool
  deriving DecidableEq, Repr

/-- The pool level (R73). -/
inductive PoolLevel where
  | normal
  | low
  | critical
  deriving DecidableEq, Repr

/-! ## Mailboxes and messages (spec/03) -/

/-- The states of a box, in the order of R38. -/
inductive BoxState where
  | unassigned
  | active
  | suspended
  deriving DecidableEq, Repr

/-- The service classes, in the order of R38. -/
inductive BoxClass where
  | student
  | staff
  | department
  | service
  deriving DecidableEq, Repr

/-- The states of a message entry, in the order of R45. -/
inductive MsgState where
  | new
  | heard
  | kept
  deriving DecidableEq, Repr

/-- The source of a message entry, in the order of R45. -/
inductive MsgSource where
  | caller
  | recorded
  | forwarded
  | broadcast
  deriving DecidableEq, Repr

/-- A message entry in use; an unlisted entry is free (R45). -/
structure Entry where
  recording : Nat
  box : Nat
  state : MsgState
  urgent : Bool
  source : MsgSource
  deposited : Option Clock
  stateDay : Option Nat
  sender : Option (List Nat)
  job : Option Nat
  deriving DecidableEq, Repr

/-- A box of the box table (R38). The list length is the length of `messages` (assumption 10). -/
structure Box where
  state : BoxState
  ext : List Nat
  cls : BoxClass
  messages : List Nat
  newCount : Nat
  urgentNew : Nat
  standard : Option Nat
  busy : Option Nat
  absence : Option Nat
  name : Option Nat
  absent : Bool
  untilDay : Option Nat
  noDeposit : Bool
  charged : Nat
  reserved : Nat
  pendingDeposits : Nat
  refusals : Nat
  deriving DecidableEq, Repr

/-- An UNASSIGNED box (R38). It has no extension and no class: the extension is empty, and `cls`
holds the first code, which nothing reads. -/
def Box.unassigned : Box where
  state := .unassigned
  ext := []
  cls := .student
  messages := []
  newCount := 0
  urgentNew := 0
  standard := none
  busy := none
  absence := none
  name := none
  absent := false
  untilDay := none
  noDeposit := false
  charged := 0
  reserved := 0
  pendingDeposits := 0
  refusals := 0

/-- A class profile (R44). -/
structure Profile where
  maxMessages : Nat
  quota : Nat
  maxMessage : Nat
  retainNew : Nat
  retainHeard : Nat
  retainKept : Nat
  coding : Coding
  urgentAllowed : Bool
  deriving DecidableEq, Repr

/-- The four class profiles (R44). -/
structure Profiles where
  student : Profile
  staff : Profile
  department : Profile
  service : Profile
  deriving DecidableEq, Repr

/-- The default profiles (R44). -/
def Profiles.default : Profiles where
  student := ⟨30, 600, 120, 30, 14, 60, .compact, false⟩
  staff := ⟨48, 1800, 300, 60, 30, 180, .full, true⟩
  department := ⟨48, 3600, 300, 0, 30, 365, .full, true⟩
  service := ⟨10, 300, 60, 7, 7, 7, .compact, true⟩

/-! ## Settings -/

/-- The module's settings, all in directory memory: trim (R68), levels (R133), detector (R141),
ramps (R143), playout depths (R147; an unlisted port has 16), lamps (R164), retry limit (R172). -/
structure Settings where
  trimGuard : Nat
  trimCap : Nat
  thresholds : List Nat
  speechClass : Nat
  speechCount : Nat
  quietLength : Nat
  startTimeout : Nat
  fadeIn : List Nat
  fadeOut : List Nat
  depths : Table Nat
  slowOn : Nat
  slowOff : Nat
  fastOn : Nat
  fastOff : Nat
  fastForUrgent : Bool
  settle : Nat
  retryLimit : Nat
  deriving DecidableEq, Repr

/-- The default settings (R68, R133, R141, R143, R147, R164, R172). -/
def Settings.default : Settings where
  trimGuard := 10
  trimCap := 500
  thresholds := [8, 16, 32, 48, 64, 96, 128, 192, 256, 384, 512, 768, 1024, 1536, 2048]
  speechClass := 4
  speechCount := 3
  quietLength := 150
  startTimeout := 250
  fadeIn := [32, 64, 96, 128, 160, 192, 224, 256]
  fadeOut := [224, 192, 160, 128, 96, 64, 32, 0]
  depths := ⟨[]⟩
  slowOn := 20
  slowOff := 20
  fastOn := 5
  fastOff := 5
  fastForUrgent := true
  settle := 2
  retryLimit := 3

/-- Directory memory (spec/01, 03, 04): battery-backed, kept through power loss and warm restart.
An unlisted block is FREE, an unlisted record EMPTY, an unlisted box UNASSIGNED, an unlisted entry
free, an unlisted prompt slot empty, an unlisted list UNDEFINED. -/
structure Directory where
  signature : Bool
  poolLevel : PoolLevel
  pool : Pool
  blocks : Table BlockStatus
  recordings : Table Recording
  boxes : Table Box
  entries : Table Entry
  profiles : Profiles
  prompts : Table Nat
  lists : Table (List Nat)
  settings : Settings
  deriving DecidableEq, Repr

/-- The directory memory as the initialisation of a lost store leaves it (R16). -/
def Directory.initialised : Directory where
  signature := true
  poolLevel := .normal
  pool := Pool.range 0 Config.numBlocks
  blocks := ⟨[]⟩
  recordings := ⟨[]⟩
  boxes := ⟨[]⟩
  entries := ⟨[]⟩
  profiles := Profiles.default
  prompts := ⟨[]⟩
  lists := ⟨[]⟩
  settings := Settings.default

/-! ## The Block Cache and the Flash Scheduler (spec/02) -/

/-- The states of a cache line (R19). -/
inductive LineState where
  | invalid
  | filling
  | clean
  | modified
  | writing
  | error
  deriving DecidableEq, Repr

/-- A cache line (R19). Its pins and its queued field are views of the pin table and of the queues
(assumption 10). The payload of an INVALID line is undefined and unreadable (R37): it is empty. -/
structure Line where
  state : LineState
  tag : Option Nat
  drop : Bool
  payload : List Byte
  deriving DecidableEq, Repr

/-- An INVALID line (R37). -/
def Line.invalid : Line := ⟨.invalid, none, false, []⟩

/-- What a wait-queue entry asks for (R27). -/
inductive WaitKind where
  | touch (urgent : Bool)
  | establish (coding : Coding)
  deriving DecidableEq, Repr

/-- An entry of the cache wait queue (R27). -/
structure WaitEntry where
  kind : WaitKind
  block : Nat
  port : Nat
  deriving DecidableEq, Repr

/-- The operation in flight on the array (R31). -/
structure FlashOp where
  write : Bool
  line : Nat
  block : Nat
  deriving DecidableEq, Repr

/-- The Block Cache and the Flash Scheduler (spec/02). An unlisted line is INVALID. `recency` lists
the lines used since the last reset, least recently used first; a line not in it is older, and among
those the lower-numbered is older (R20). `pins` gives each port the one line it pins (R20). -/
structure Cache where
  lines : Table Line
  recency : List Nat
  pins : Table Nat
  waitQueue : List WaitEntry
  urgentQueue : List Nat
  writeQueue : List Nat
  fillQueue : List Nat
  inFlight : Option FlashOp
  readErrors : Nat
  writeErrors : Nat
  flashTimeouts : Nat
  droppedRequests : Nat
  deriving DecidableEq, Repr

/-- The cache and scheduler at cold start (R37). -/
def Cache.cold : Cache := ⟨⟨[]⟩, [], ⟨[]⟩, [], [], [], [], none, 0, 0, 0, 0⟩

/-! ## The Port Array (spec/05, 08, 09, 10) -/

/-- The states of a port, in the order of R115. -/
inductive PortState where
  | free
  | idle
  | playing
  | recording
  | closing
  | test
  deriving DecidableEq, Repr

/-- The kinds of a resolved segment (R119). A MESSAGE keeps its box and its mark. -/
inductive SegKind where
  | message (box : Nat) (mark : Bool)
  | greeting
  | prompt
  | recording
  | tone
  | silence
  deriving DecidableEq, Repr

/-- A resolved segment: what it plays from frame `start` up to, and without, frame `stop`. It holds
`recording` where it has one. `refusal` marks the refusal prompt of an ANSWER (R81). -/
structure Segment where
  kind : SegKind
  recording : Option Nat
  start : Nat
  stop : Nat
  refusal : Bool
  deriving DecidableEq, Repr

/-- A play level: its segments from the current one on, the current segment's index in the list,
counting from 1, and the first frame of it not yet sent (R115, R122). -/
structure Level where
  index : Nat
  segments : List Segment
  position : Nat
  deriving DecidableEq, Repr

/-- A frame of the playout queue: its segment's index, its number in the segment and its samples
(R147). -/
structure QueuedFrame where
  segment : Nat
  number : Nat
  samples : Frame
  deriving DecidableEq, Repr

/-- The operations of an operation record, and PLAY, in the order of R128. -/
inductive Operation where
  | play
  | answer
  | record
  deriving DecidableEq, Repr

/-- The phases of an operation, in the order of R77. -/
inductive Phase where
  | greeting
  | refusal
  | tone
  | capture
  | closing
  deriving DecidableEq, Repr

/-- The greeting chosen for an ANSWER, in the order of R77. -/
inductive GreetingChoice where
  | absence
  | busy
  | standard
  | default
  deriving DecidableEq, Repr

/-- The end reasons, in the order of R128. -/
inductive EndReason where
  | stop
  | hangup
  | silence
  | limit
  | pool
  deriving DecidableEq, Repr

/-- The operation record of a port (R77), with the end reason that its PORT_DONE will carry (R92). -/
structure OpRecord where
  answer : Bool
  target : Purpose
  phase : Phase
  admitted : Bool
  depositHeld : Bool
  limit : Nat
  urgent : Bool
  sender : Option (List Nat)
  endOnSilence : Bool
  greeting : Option GreetingChoice
  noDeposit : Bool
  recording : Option Nat
  endReason : Option EndReason
  deriving DecidableEq, Repr

/-- The states of the speech detector, in the order of R135. -/
inductive DetectorState where
  | start
  | talk
  | quiet
  deriving DecidableEq, Repr

/-- A port's speech detector (R135). `window` holds the newest flag last. `quietDue` and
`timeoutDue` are the model's own marks: the state test of the last frame examined called for QUIET,
or for the start timeout, and the step of the table that takes it is still to come (assumption 6). -/
structure Detector where
  state : DetectorState
  window : List Bool
  trailing : Nat
  examined : Nat
  talkSeen : Bool
  lastClass : Nat
  quietDue : Bool
  timeoutDue : Bool
  deriving DecidableEq, Repr

/-- A detector at reset and at the start of a capture (R135). -/
def Detector.initial : Detector := ⟨.start, [], 0, 0, false, 0, false, false⟩

/-- A STOP fade-out under way: the next step, 1 to 8, or 9 when the eighth frame has been sent and
the end of the level is due (R124); and whether a STOP carried the all flag. -/
structure StopFade where
  step : Nat
  all : Bool
  deriving DecidableEq, Repr

/-- The modes of a path test, in the order of R152. -/
inductive TestMode where
  | echo
  | patternLine
  | patternLocal
  deriving DecidableEq, Repr

/-- A path test: the generator with the up to `n` bits it produced last, newest first (R154), error insertion (R155)
and the checker with its history, newest first (R156). -/
structure PathTest where
  mode : TestMode
  n : Nat
  y : Nat
  seed : Nat
  register : List Bool
  single : Bool
  rate : Option Nat
  rateCount : Nat
  inserted : Nat
  inSync : Bool
  history : List Bool
  run : Nat
  window : List Bool
  primed : Bool
  deriving DecidableEq, Repr

/-- The counters of a port (R129). -/
structure PortCounters where
  underflows : Nat
  overflows : Nat
  talks : Nat
  quiets : Nat
  syncLosses : Nat
  bits : Nat
  errors : Nat
  deriving DecidableEq, Repr

/-- The latched flags of a port (R129). -/
structure PortFlags where
  underflow : Bool
  overflow : Bool
  talk : Bool
  quiet : Bool
  syncLoss : Bool
  deriving DecidableEq, Repr

/-- A voice port (R115). `next` is the segment index and frame number of the next frame to be
queued, absent when the last frame of the level has been queued; `lookahead` is its lookahead blocks
(R149). -/
structure Port where
  state : PortState
  slot : Option Nat
  op : Option OpRecord
  level : Option Level
  stack : List Level
  playout : List QueuedFrame
  next : Option (Nat × Nat)
  lookahead : List Nat
  fadeIn : Option Nat
  stopFade : Option StopFade
  capture : List Frame
  detector : Detector
  pathTest : Option PathTest
  underflowCount : Nat
  counters : PortCounters
  flags : PortFlags
  deriving DecidableEq, Repr

/-- A port at cold start: FREE, with everything empty, absent or 0 (R130). -/
def Port.cold : Port where
  state := .free
  slot := none
  op := none
  level := none
  stack := []
  playout := []
  next := none
  lookahead := []
  fadeIn := none
  stopFade := none
  capture := []
  detector := Detector.initial
  pathTest := none
  underflowCount := 0
  counters := ⟨0, 0, 0, 0, 0, 0, 0⟩
  flags := ⟨false, false, false, false, false⟩

/-! ## The Job Unit and the Retention Unit (spec/06, 07) -/

/-- Where a job stands: no cursor while it waits; a box; or END (R93). -/
inductive Cursor where
  | waiting
  | at (box : Nat)
  | finished
  deriving DecidableEq, Repr

/-- A job (R93). `list` is absent for a RECALL. -/
structure Job where
  number : Nat
  recording : Nat
  list : Option Nat
  urgent : Bool
  cursor : Cursor
  count : Nat
  inactive : Nat
  full : Nat
  duplicate : Nat
  deriving DecidableEq, Repr

/-- The Retention Unit: the day clock, the moment the minute timer last restarted (R105, R107), the
sweep (R108), and whether a pass is owed once STARTED has been sent (R114). -/
structure Retention where
  clock : Option Clock
  minuteStart : Nat
  cursor : Option Nat
  sweepDay : Option Nat
  rerun : Bool
  expired : Nat
  owed : Bool
  deriving DecidableEq, Repr

/-- The Retention Unit at cold start (R114). -/
def Retention.cold : Retention := ⟨none, 0, none, none, false, 0, false⟩

/-! ## The Lamp Unit and the Lamp Line Interface (spec/11, 12) -/

/-- The cadences, in the order of R184. -/
inductive Cadence where
  | dark
  | steady
  | slow
  | fast
  deriving DecidableEq, Repr

/-- What lights a lamp, in the order of R157. -/
inductive LampSource where
  | off
  | new
  | urgent
  | any
  deriving DecidableEq, Repr

/-- The states of a lamp record, in the order of R157. -/
inductive LampState where
  | settled
  | waiting
  | queued
  | inFlight
  | failed
  deriving DecidableEq, Repr

/-- Why a lamp record failed, in the order of R157. -/
inductive FailReason where
  | noAnswer
  | noStation
  | lampFault
  deriving DecidableEq, Repr

/-- A lamp record (R157). `confirmed` is absent when UNKNOWN; `expiry` is a moment of the timebase. -/
structure Lamp where
  station : Option (Nat × Nat)
  source : LampSource
  wanted : Cadence
  confirmed : Option Cadence
  state : LampState
  expiry : Option Nat
  sent : Option Cadence
  retries : Nat
  failReason : Option FailReason
  deriving DecidableEq, Repr

/-- The lamp record of an UNASSIGNED box (R157). -/
def Lamp.unmapped : Lamp := ⟨none, .new, .dark, none, .settled, none, none, 0, none⟩

/-- A shelf record (R168). `pausedUntil` and `probeAt` are moments of the timebase; the probe timer
runs while `probeAt` is present (R173). -/
structure Shelf where
  up : Bool
  pausedUntil : Option Nat
  nextNumber : Nat
  lastAccepted : Option Nat
  consecutive : Nat
  probeAt : Option Nat
  orders : Nat
  retries : Nat
  failures : Nat
  strays : Nat
  deriving DecidableEq, Repr

/-- A shelf at cold start (R168). -/
def Shelf.cold : Shelf := ⟨true, none, 0, none, 0, none, 0, 0, 0, 0⟩

/-- An order in an in-flight slot (R168). -/
structure Order where
  shelf : Nat
  station : Nat
  box : Option Nat
  cadence : Cadence
  on : Nat
  off : Nat
  number : Nat
  resends : Nat
  probe : Bool
  timerRunning : Bool
  deriving DecidableEq, Repr

/-- A frame on the down line: an acknowledgment, or the order of a shelf with its number (R169). -/
inductive DownFrame where
  | ack (shelf number : Nat)
  | order (shelf station number : Nat) (cadence : Cadence) (on off : Nat)
  deriving DecidableEq, Repr

/-- A receiver of bytes: hunting for its sync value, or in a frame with the bytes collected after it
(R174, R177). -/
inductive Framer where
  | hunting
  | collecting (bytes : List Byte)
  deriving DecidableEq, Repr

/-- The Lamp Line Interface (spec/12). An unlisted shelf is as at cold start. `orders` are the slots
in use, `ackQueue` the acknowledgments waiting, `resends` the shelves whose order waits to be resent,
oldest first, `probesDue` the shelves whose probe is due, oldest first. -/
structure LampLine where
  shelves : Table Shelf
  orders : List Order
  ackQueue : List (Nat × Nat)
  resends : List Nat
  probesDue : List Nat
  sending : Option DownFrame
  receiver : Framer
  deriving DecidableEq, Repr

/-- The Lamp Line Interface at cold start: the records and the table of slots by R168. That the down-line
transmitter is idle and the up-line receiver hunts is stated by no rule (DESIGN CHOICE: assumption 64). -/
def LampLine.cold : LampLine := ⟨⟨[]⟩, [], [], [], [], none, .hunting⟩

/-! ## The Link Interface (spec/13) -/

/-- The refusal reasons, in the order of their codes (R179). -/
inductive Reason where
  | length
  | unknownKind
  | starting
  | range
  | state
  | busy
  | noBox
  | noEntry
  | noRecording
  | full
  | quota
  | duplicate
  | pool
  | refs
  | depth
  | exists_
  | noList
  | suspended
  deriving DecidableEq, Repr

/-- The notice kinds, in the order of their codes (R185). -/
inductive NoticeKind where
  | portDone
  | jobDone
  | sweepDone
  | poolLevel
  | storageFault
  | lampFail
  | shelfState
  | started
  deriving DecidableEq, Repr

/-- A field of a reply or notice: a number in a width of bytes (R184, R185). -/
structure Field where
  width : Nat
  value : Nat
  deriving DecidableEq, Repr

/-- A frame of the transmit FIFO (R184). -/
inductive OutFrame where
  | accepted (kind tag : Nat) (fields : List Field)
  | refused (kind tag : Nat) (reason : Reason) (detail : Nat)
  | notice (kind : NoticeKind) (sequence : Nat) (fields : List Field)
  deriving DecidableEq, Repr

/-- A complete frame of the receive queue (R177). -/
structure RxFrame where
  kind : Nat
  tag : Nat
  body : List Byte
  deriving DecidableEq, Repr

/-- The latched status flags, in the order of R181. -/
structure StatusFlags where
  poolLevelChanged : Bool
  storageError : Bool
  shelfChanged : Bool
  lampFailed : Bool
  noticeLost : Bool
  clockUnset : Bool
  storeLost : Bool
  restarted : Bool
  deriving DecidableEq, Repr

/-- The Link Interface (spec/13). Bit `k - 1` of `mask` enables the notice kind of code `k`. -/
structure Link where
  framer : Framer
  receiveQueue : List RxFrame
  fifo : List OutFrame
  sequence : Nat
  mask : Nat
  flags : StatusFlags
  framingErrors : Nat
  overruns : Nat
  lostNotices : Nat
  deriving DecidableEq, Repr

/-- The Link Interface at cold start, before STARTED (R183). -/
def Link.cold (storeLost : Bool) : Link :=
  ⟨.hunting, [], [], 0, 255, ⟨false, false, false, false, false, true, storeLost, true⟩, 0, 0, 0⟩

/-- The causes of a start, in the order of R182. -/
inductive StartCause where
  | cold
  | warm
  | format
  deriving DecidableEq, Repr

/-- The module state (R182). -/
inductive ModuleState where
  | running
  | starting (cause : StartCause)
  deriving DecidableEq, Repr

/-! ## The whole module -/

/-- The state of the module. `now` is its timebase in milliseconds (assumption 3), `transmit` the
frames sent to the transmit slots at the last frame time, `pending` the commands waiting. -/
structure State where
  module : ModuleState
  now : Nat
  dir : Directory
  flash : Table (List Byte)
  cache : Cache
  ports : Table Port
  transmit : List (Nat × Frame)
  jobs : List Job
  retention : Retention
  lamps : Table Lamp
  lampQueue : List Nat
  line : LampLine
  link : Link
  pending : List Instr
  deriving DecidableEq, Repr

/-- Why the module stops. It never does: the spec gives every command an effect. -/
inductive Fault where
  /-- Raised by no meaning; the spec names no fault that stops the module. Safe. -/
  | never
  deriving DecidableEq, Repr

/-- Why a command has no meaning. -/
inductive Refusal where
  /-- Raised by an arm of `exec` whose command has no meaning yet; no arm does. Safe. -/
  | notModelled (mnemonic : String)
  deriving DecidableEq, Repr

/-- The STARTED notice of the cold start that reset stands for: cause COLD, free count 262,144,
pool level NORMAL (R182). -/
def startedAtReset : OutFrame := .notice .started 0 [⟨1, 0⟩, ⟨4, 262144⟩, ⟨1, 0⟩]

/-- The module right after reset: a cold start that found the directory memory lost, at the moment
it became RUNNING and sent STARTED (R16, R182, R183; assumption 1). -/
def State.reset : State where
  module := .running
  now := 0
  dir := Directory.initialised
  flash := ⟨[]⟩
  cache := Cache.cold
  ports := ⟨[]⟩
  transmit := []
  jobs := []
  retention := Retention.cold
  lamps := ⟨[]⟩
  lampQueue := []
  line := LampLine.cold
  link := { Link.cold true with fifo := [startedAtReset], sequence := 1 }
  pending := []

end Sys2Proof.Machine
end

