-- ==== Sys2Proof/Machine/Operands.lean ====
section
/-! DEFINITION. The codes of enumerated values (R179, R185: numbered from 0 in the order in which
the rule that defines the field lists them), the fields of replies and notices, and their bytes
(R184, R185). -/

namespace Sys2Proof.Machine

/-! ## Codes read from a request -/

/-- A flag (R185): 0 for no or off, 1 for yes or on. -/
def flagOf : Nat → Option Bool
  | 0 => some false
  | 1 => some true
  | _ => none

/-- A box state (R38). -/
def boxStateOf : Nat → Option BoxState
  | 0 => some .unassigned
  | 1 => some .active
  | 2 => some .suspended
  | _ => none

/-- A box class (R38). -/
def boxClassOf : Nat → Option BoxClass
  | 0 => some .student
  | 1 => some .staff
  | 2 => some .department
  | 3 => some .service
  | _ => none

/-- A coding (R44). -/
def codingOf : Nat → Option Coding
  | 0 => some .full
  | 1 => some .compact
  | _ => none

/-- The state of a message (R45). -/
def msgStateOf : Nat → Option MsgState
  | 0 => some .new
  | 1 => some .heard
  | 2 => some .kept
  | _ => none

/-- A greeting slot (R38). -/
def greetingSlotOf : Nat → Option GreetingSlot
  | 0 => some .standard
  | 1 => some .busy
  | 2 => some .absence
  | 3 => some .name
  | _ => none

/-- The reason of an ANSWER: NO_ANSWER, BUSY or DIRECT (R79); yes when it is BUSY (R80). -/
def answerBusyOf : Nat → Option Bool
  | 0 => some false
  | 1 => some true
  | 2 => some false
  | _ => none

/-- The mode of a path test (R152). -/
def testModeOf : Nat → Option TestMode
  | 0 => some .echo
  | 1 => some .patternLine
  | 2 => some .patternLocal
  | _ => none

/-- The source of a lamp (R159). -/
def lampSourceOf : Nat → Option LampSource
  | 0 => some .off
  | 1 => some .new
  | 2 => some .urgent
  | 3 => some .any
  | _ => none

/-! ## Codes written to a reply or notice -/

/-- yes 1, no 0 (R185). -/
def flagCode (b : Bool) : Nat := if b then 1 else 0

/-- The code of a box state (R38). -/
def BoxState.code : BoxState → Nat
  | .unassigned => 0
  | .active => 1
  | .suspended => 2

/-- The code of a class (R38). -/
def BoxClass.code : BoxClass → Nat
  | .student => 0
  | .staff => 1
  | .department => 2
  | .service => 3

/-- The code of a coding (R44). -/
def Coding.code : Coding → Nat
  | .full => 0
  | .compact => 1

/-- The code of a message state (R45). -/
def MsgState.code : MsgState → Nat
  | .new => 0
  | .heard => 1
  | .kept => 2

/-- The code of a message source (R45). -/
def MsgSource.code : MsgSource → Nat
  | .caller => 0
  | .recorded => 1
  | .forwarded => 2
  | .broadcast => 3

/-- The code of a pool level (R73). -/
def PoolLevel.code : PoolLevel → Nat
  | .normal => 0
  | .low => 1
  | .critical => 2

/-- The code of a block status; an unlisted block is FREE (R15). -/
def blockStatusCode : Option BlockStatus → Nat
  | none => 0
  | some (.chained _ _) => 1
  | some .draining => 2
  | some .retired => 3

/-- The code of a line state (R19). -/
def LineState.code : LineState → Nat
  | .invalid => 0
  | .filling => 1
  | .clean => 2
  | .modified => 3
  | .writing => 4
  | .error => 5

/-- The code of a port state (R115). -/
def PortState.code : PortState → Nat
  | .free => 0
  | .idle => 1
  | .playing => 2
  | .recording => 3
  | .closing => 4
  | .test => 5

/-- The code of an operation (R128). -/
def Operation.code : Operation → Nat
  | .play => 0
  | .answer => 1
  | .record => 2

/-- The code of a phase (R77). -/
def Phase.code : Phase → Nat
  | .greeting => 0
  | .refusal => 1
  | .tone => 2
  | .capture => 3
  | .closing => 4

/-- The code of a greeting choice (R77, R82). -/
def GreetingChoice.code : GreetingChoice → Nat
  | .absence => 0
  | .busy => 1
  | .standard => 2
  | .default => 3

/-- The code of an end reason (R128). -/
def EndReason.code : EndReason → Nat
  | .stop => 0
  | .hangup => 1
  | .silence => 2
  | .limit => 3
  | .pool => 4

/-- The code of a detector state (R135). -/
def DetectorState.code : DetectorState → Nat
  | .start => 0
  | .talk => 1
  | .quiet => 2

/-- The code of a test mode (R152). -/
def TestMode.code : TestMode → Nat
  | .echo => 0
  | .patternLine => 1
  | .patternLocal => 2

/-- The code of a cadence (R184). -/
def Cadence.code : Cadence → Nat
  | .dark => 0
  | .steady => 1
  | .slow => 2
  | .fast => 3

/-- The code of a confirmed cadence: the four, then UNKNOWN (R157). -/
def confirmedCode : Option Cadence → Nat
  | some c => c.code
  | none => 4

/-- The code of a lamp source (R157). -/
def LampSource.code : LampSource → Nat
  | .off => 0
  | .new => 1
  | .urgent => 2
  | .any => 3

/-- The code of a lamp state (R157). -/
def LampState.code : LampState → Nat
  | .settled => 0
  | .waiting => 1
  | .queued => 2
  | .inFlight => 3
  | .failed => 4

/-- The code of a fail reason (R157). -/
def FailReason.code : FailReason → Nat
  | .noAnswer => 0
  | .noStation => 1
  | .lampFault => 2

/-- The code of a start cause (R182). -/
def StartCause.code : StartCause → Nat
  | .cold => 0
  | .warm => 1
  | .format => 2

/-- The code of a refusal reason (R179). -/
def Reason.code : Reason → Nat
  | .length => 1
  | .unknownKind => 2
  | .starting => 3
  | .range => 4
  | .state => 5
  | .busy => 6
  | .noBox => 7
  | .noEntry => 8
  | .noRecording => 9
  | .full => 10
  | .quota => 11
  | .duplicate => 12
  | .pool => 13
  | .refs => 14
  | .depth => 15
  | .exists_ => 16
  | .noList => 17
  | .suspended => 18

/-- The code of a notice kind (R185). -/
def NoticeKind.code : NoticeKind → Nat
  | .portDone => 1
  | .jobDone => 2
  | .sweepDone => 3
  | .poolLevel => 4
  | .storageFault => 5
  | .lampFail => 6
  | .shelfState => 7
  | .started => 8

/-! ## Fields of replies and notices (R184, R185) -/

/-- A number in one byte. -/
def b1 (n : Nat) : Field := ⟨1, n⟩

/-- A number in two bytes. -/
def b2 (n : Nat) : Field := ⟨2, n⟩

/-- A number in four bytes. -/
def b4 (n : Nat) : Field := ⟨4, n⟩

/-- A flag in one byte. -/
def bf (b : Bool) : Field := ⟨1, flagCode b⟩

/-- A signed number in four bytes, two's complement. -/
def bSigned (i : Int) : Field := ⟨4, (i % 4294967296).toNat⟩

/-- An optional field: a presence byte, then the value's fields. -/
def bOpt {α : Type} (f : α → List Field) : Option α → List Field
  | none => [b1 0]
  | some a => b1 1 :: f a

/-- An extension: its digit count and six digit bytes; the unused bytes are 0. -/
def bExt (e : List Nat) : List Field :=
  b1 e.length :: ((e ++ List.replicate 6 0).take 6).map b1

/-- A day and minute. -/
def bClock (c : Clock) : List Field := [b2 c.day, b2 c.minute]

/-- The bytes of a field. -/
def Field.bytes (f : Field) : List Byte := leBytes f.width f.value

/-- The body of a reply or notice (R184). -/
def OutFrame.body : OutFrame → List Byte
  | .accepted k _ fs => byteOf k :: fs.flatMap Field.bytes
  | .refused k _ r d => byteOf k :: byteOf r.code :: leBytes 2 d
  | .notice k n fs => byteOf k.code :: byteOf n :: fs.flatMap Field.bytes

/-- The kind byte of a frame (R184): 0x80 ACCEPTED, 0x81 REFUSED, 0xC0 notice. -/
def OutFrame.kindByte : OutFrame → Nat
  | .accepted _ _ _ => 0x80
  | .refused _ _ _ _ => 0x81
  | .notice _ _ _ => 0xC0

/-- The tag of a frame: the request's in a reply, 0 in a notice (R184). -/
def OutFrame.tagByte : OutFrame → Nat
  | .accepted _ t _ => t
  | .refused _ t _ _ => t
  | .notice _ _ _ => 0

/-- The sum of bytes modulo 65,536, as both links check their frames (R177, R184). -/
def byteSum (bs : List Byte) : Nat := bs.foldl (fun n b => n + b.toNat) 0 % 65536

/-- A control link frame from its kind, tag and body: sync, length high byte first, kind, tag, body
and check low byte first (R184). -/
def linkFrame (kind tag : Nat) (body : List Byte) : List Byte :=
  let inner := [byteOf (body.length / 256), byteOf body.length, byteOf kind, byteOf tag] ++ body
  byteOf 0xA5 :: inner ++ leBytes 2 (byteSum inner)

/-- A frame of the transmit FIFO as its bytes on the control link (R184). -/
def OutFrame.bytes (f : OutFrame) : List Byte := linkFrame f.kindByte f.tagByte f.body

/-- A lamp line frame (R184). -/
def lampFrame (shelf kind number station cadence on off : Nat) : List Byte :=
  let inner := [shelf, kind, number, station, cadence, on, off].map byteOf
  byteOf 0x5A :: inner ++ leBytes 2 (byteSum inner)

/-- A down-line frame as its bytes (R184): an ORDER, or an ACK with its other fields 0. -/
def DownFrame.bytes : DownFrame → List Byte
  | .ack sh n => lampFrame sh 0x02 n 0 0 0 0
  | .order sh st n c on off => lampFrame sh 0x01 n st c.code on off

/-- The outcome of a request's own tests and work (R178). -/
inductive Reply where
  | accepted (fields : List Field)
  | refused (reason : Reason) (detail : Nat)
  deriving DecidableEq, Repr

end Sys2Proof.Machine
end

