-- ==== Sys2Proof/Machine/Audio.lean ====
section
/-! DEFINITION. Samples and frames: companding (R131), the COMPACT code (R132), level and class
(R133), ramps (R143), and a frame's place in a block's payload (R6). -/

namespace Sys2Proof.Machine

/-- The silence value of a companded sample (R131). -/
def silentSample : Byte := 0x80

/-- A frame of silence (R131). -/
def silentFrame : Frame := List.replicate Config.frameSamples silentSample

/-- A frame of exactly 160 samples (assumption 37). -/
def wholeFrame (f : Frame) : Frame := (f ++ silentFrame).take Config.frameSamples

/-- The magnitude a companded sample expands to (R131). -/
def magnitudeOf (c : Byte) : Nat :=
  let s := c.toNat / 16 % 8
  let q := c.toNat % 16
  if s = 0 then 2 * q else (16 + q) * 2 ^ s

/-- Is the sample positive: bit 7 is 1 (R131)? -/
def isPositive (c : Byte) : Bool := 128 ≤ c.toNat

/-- The signed value of a companded sample (R131). -/
def signedOf (c : Byte) : Int := if isPositive c then (magnitudeOf c : Int) else -(magnitudeOf c : Int)

/-- The segment whose magnitudes reach `m`, from segment `s` down. -/
def segmentFor (m : Nat) : (s : Nat) → Nat
  | 0 => 0
  | s + 1 => if 16 * 2 ^ (s + 1) ≤ m then s + 1 else segmentFor m s

/-- The code of a sign and a magnitude: the code of that sign whose expanded magnitude is the
largest at or below it; a magnitude of 0 gives 0x80 (R131). -/
def compand (positive : Bool) (m : Nat) : Byte :=
  if m = 0 then silentSample
  else
    let s := segmentFor m 7
    let q := if s = 0 then m / 2 else min 15 (m / 2 ^ s - 16)
    BitVec.ofNat 8 ((if positive then 128 else 0) + 16 * s + q)

/-- The code of a signed value (R131). -/
def compandSigned (v : Int) : Byte := compand (decide (0 ≤ v)) v.natAbs

/-- The state of the COMPACT coder: the prediction and the step (R132). -/
structure CoderState where
  prediction : Int
  step : Nat
  deriving DecidableEq, Repr

/-- The fresh state from which each frame is coded (R132). -/
def CoderState.fresh : CoderState := ⟨0, 16⟩

/-- A prediction clamped to -3,968 to 3,968 (R132). -/
def clampPrediction (v : Int) : Int := max (-3968) (min 3968 v)

/-- The coder after one 2-bit code (R132). -/
def CoderState.next (st : CoderState) (code : Nat) : CoderState :=
  let p : Int :=
    match code with
    | 0 => st.prediction
    | 1 => st.prediction + st.step
    | 2 => st.prediction - st.step
    | _ => 0
  let step := if code = 0 ∨ code = 3 then max 8 (st.step / 2) else min 1024 (2 * st.step)
  ⟨clampPrediction p, step⟩

/-- The four codes of a byte, the first in bits 7 and 6 (R132). -/
def codesOf (b : Byte) : List Nat :=
  [b.toNat / 64 % 4, b.toNat / 16 % 4, b.toNat / 4 % 4, b.toNat % 4]

/-- The samples of a run of codes (R132). -/
def decodeCodes : CoderState → List Nat → List Byte
  | _, [] => []
  | st, c :: rest => compandSigned (st.next c).prediction :: decodeCodes (st.next c) rest

/-- The code whose prediction is nearest to `v`, the lowest when two are equally near (R132). -/
def bestCode (st : CoderState) (v : Int) : Nat :=
  let d (c : Nat) : Nat := ((st.next c).prediction - v).natAbs
  let pick (a b : Nat) : Nat := if d b < d a then b else a
  pick (pick (pick 0 1) 2) 3

/-- The codes of a run of samples (R132). -/
def encodeSamples : CoderState → List Byte → List Nat
  | _, [] => []
  | st, c :: rest =>
    let code := bestCode st (signedOf c)
    code :: encodeSamples (st.next code) rest

/-- Codes packed four to a byte, the first in bits 7 and 6 (R132). -/
def packCodes : List Nat → List Byte
  | a :: b :: c :: d :: rest => BitVec.ofNat 8 (64 * a + 16 * b + 4 * c + d) :: packCodes rest
  | _ => []

/-- Bytes of a stored frame (spec/00, Storage units and codings). -/
def Coding.frameBytes : Coding → Nat
  | .full => 160
  | .compact => 40

/-- Frames of a block, fpb (R62). -/
def Coding.fpb : Coding → Nat
  | .full => 16
  | .compact => 64

/-- A received frame as it is stored (R131, R132). -/
def Coding.encode : Coding → Frame → List Byte
  | .full, f => f
  | .compact, f => packCodes (encodeSamples CoderState.fresh f)

/-- A stored frame as its 160 companded samples (R131, R132). -/
def Coding.decode : Coding → List Byte → Frame
  | .full, bs => bs
  | .compact, bs => decodeCodes CoderState.fresh (bs.flatMap codesOf)

/-- A payload holding the silence value of a coding in every frame (R22, R131, R132). -/
def Coding.silentPayload : Coding → List Byte
  | .full => List.replicate Config.blockBytes silentSample
  | .compact => List.replicate Config.blockBytes 0

/-- What a block of the array that no program has written reads as (assumption 9). -/
def unwrittenPayload : List Byte := List.replicate Config.blockBytes 0

/-- The payload with stored frame `bs` at frame position `k` (R6). -/
def payloadPut (payload : List Byte) (k size : Nat) (bs : List Byte) : List Byte :=
  payload.take (k * size) ++ bs ++ payload.drop ((k + 1) * size)

/-- The stored frame at frame position `k` of a payload (R6). -/
def payloadFrame (payload : List Byte) (k size : Nat) : List Byte :=
  (payload.drop (k * size)).take size

/-- The level of a frame: the average magnitude of its samples, rounded down (R133). -/
def frameLevel (f : Frame) : Nat := (f.map magnitudeOf).sum / Config.frameSamples

/-- The class of a frame: the number of thresholds at or below its level (R133). -/
def frameClass (thresholds : List Nat) (f : Frame) : Nat :=
  (thresholds.filter (· ≤ frameLevel f)).length

/-- A sample scaled by gain `g` of 256 (R143). Step 3 of the rule is applied at every gain, so code 0x00
comes out as the silence value 0x80 at gain 256 too (DESIGN CHOICE; assumption 45). -/
def scaleSample (g : Nat) (c : Byte) : Byte := compand (isPositive c) (magnitudeOf c * g / 256)

/-- A frame scaled by gain `g`, all samples alike (R143). -/
def scaleFrame (g : Nat) (f : Frame) : Frame := f.map (scaleSample g)

/-- The gain of step `n`, 1 to 8, of a ramp table (R143). -/
def gainOf (table : List Nat) (n : Nat) : Nat := table.getD (n - 1) 256

/-- Frame `k` of the call-progress tone (R119; the samples are a free value, assumption 7). -/
def toneFrame (k : Nat) : Frame := (List.range Config.frameSamples).map (Config.toneSample k)

/-- The bits of a byte, most significant first (R152). -/
def bitsOfByte (b : Byte) : List Bool :=
  [7, 6, 5, 4, 3, 2, 1, 0].map (fun i => b.toNat / 2 ^ i % 2 == 1)

/-- A byte from its bits, most significant first (R152). -/
def byteOfBits (bits : List Bool) : Byte :=
  BitVec.ofNat 8 (bits.foldl (fun n b => 2 * n + (if b then 1 else 0)) 0)

end Sys2Proof.Machine
end

