-- ==== Sys2Proof/Machine/Flags.lean ====
section
/-! DEFINITION. The latched flags and counters: how STATUS clears its flags (R181), how a notice
sets its flag (R180), and how a port's counters raise their flags (R129). -/

namespace Sys2Proof.Machine

/-- The latched flag of a notice kind is set (R180). -/
def StatusFlags.raised (f : StatusFlags) : NoticeKind → StatusFlags
  | .poolLevel => { f with poolLevelChanged := true }
  | .storageFault => { f with storageError := true }
  | .lampFail => { f with lampFailed := true }
  | .shelfState => { f with shelfChanged := true }
  | .portDone | .jobDone | .sweepDone | .started => f

/-- No flag set. -/
def StatusFlags.clear : StatusFlags := ⟨false, false, false, false, false, false, false, false⟩

/-- The flags as STATUS lists them (R181). -/
def StatusFlags.fields (f : StatusFlags) : List Field :=
  [bf f.poolLevelChanged, bf f.storageError, bf f.shelfChanged, bf f.lampFailed, bf f.noticeLost,
    bf f.clockUnset, bf f.storeLost, bf f.restarted]

/-- A port's counters at 0. -/
def PortCounters.zero : PortCounters := ⟨0, 0, 0, 0, 0, 0, 0⟩

/-- No port flag set. -/
def PortFlags.clear : PortFlags := ⟨false, false, false, false, false⟩

/-- A playout underflow: the counter, its flag, and the count for the current play (R150). -/
def Port.countUnderflow (p : Port) : Port :=
  { p with
    counters := { p.counters with underflows := sat16 p.counters.underflows }
    flags := { p.flags with underflow := true }
    underflowCount := sat16 p.underflowCount }

/-- A frame lost to a full queue: the capture overflow counter and its flag (R151, R153). -/
def Port.countOverflow (p : Port) : Port :=
  { p with
    counters := { p.counters with overflows := sat16 p.counters.overflows }
    flags := { p.flags with overflow := true } }

/-- A transition of the detector to TALK (R137). -/
def Port.countTalk (p : Port) : Port :=
  { p with
    counters := { p.counters with talks := sat16 p.counters.talks }
    flags := { p.flags with talk := true } }

/-- A transition of the detector to QUIET (R138). -/
def Port.countQuiet (p : Port) : Port :=
  { p with
    counters := { p.counters with quiets := sat16 p.counters.quiets }
    flags := { p.flags with quiet := true } }

/-- The checker has lost sync (R156). -/
def Port.countSyncLoss (p : Port) : Port :=
  { p with
    counters := { p.counters with syncLosses := sat16 p.counters.syncLosses }
    flags := { p.flags with syncLoss := true } }

/-- The counters as PORT STATUS lists them (R129). -/
def PortCounters.fields (c : PortCounters) : List Field :=
  [b2 c.underflows, b2 c.overflows, b2 c.talks, b2 c.quiets, b2 c.syncLosses, b4 c.bits,
    b4 c.errors]

/-- The flags as PORT STATUS lists them (R129). -/
def PortFlags.fields (f : PortFlags) : List Field :=
  [bf f.underflow, bf f.overflow, bf f.talk, bf f.quiet, bf f.syncLoss]

end Sys2Proof.Machine
end

