-- ==== Sys2Proof/Machine/Ops.lean ====
section
/-! DEFINITION. The named operations over State: one reader and one writer for each kind of record,
and the one operation that produces a notice (R180). -/

namespace Sys2Proof.Machine

/-! ## Records of the Directory -/

/-- The status of block `b`; absent when FREE (spec/01, 1.1). -/
def Directory.block (d : Directory) (b : Nat) : Option BlockStatus := d.blocks.find b

/-- Block `b` with a status other than FREE. -/
def Directory.setBlock (d : Directory) (b : Nat) (st : BlockStatus) : Directory :=
  { d with blocks := d.blocks.put b st }

/-- Block `b` made FREE in the block map. -/
def Directory.clearBlock (d : Directory) (b : Nat) : Directory :=
  { d with blocks := d.blocks.drop b }

/-- Box `b` (R38). -/
def Directory.box (d : Directory) (b : Nat) : Box := d.boxes.read Box.unassigned b

/-- The profile of a class (R44). -/
def Profiles.of (p : Profiles) : BoxClass → Profile
  | .student => p.student
  | .staff => p.staff
  | .department => p.department
  | .service => p.service

/-- The profiles with one of them replaced (R44). -/
def Profiles.set (p : Profiles) (c : BoxClass) (v : Profile) : Profiles :=
  match c with
  | .student => { p with student := v }
  | .staff => { p with staff := v }
  | .department => { p with department := v }
  | .service => { p with service := v }

/-- The profile of a box's class, as it stands now (R62). -/
def Directory.profile (d : Directory) (b : Nat) : Profile := d.profiles.of (d.box b).cls

/-- The playout depth of a port (R147). -/
def Settings.depth (st : Settings) (p : Nat) : Nat := st.depths.read 16 p

/-- The number of DRAINING blocks (R181). -/
def Directory.drainingCount (d : Directory) : Nat := d.blocks.count (· == .draining)

/-- The number of RETIRED blocks (R181). -/
def Directory.retiredCount (d : Directory) : Nat := d.blocks.count (· == .retired)

/-- The free places of the shared member pool (R57). -/
def Directory.freePlaces (d : Directory) : Nat :=
  Config.memberPool - (d.lists.rows.map (fun r => r.2.length)).sum

/-! ## Readers of State -/

/-- Is the module RUNNING (R182)? -/
def State.running (s : State) : Bool := s.module == .running

/-- Recording `r`; absent when EMPTY. -/
def State.recording (s : State) (r : Nat) : Option Recording := s.dir.recordings.find r

/-- Box `b`. -/
def State.box (s : State) (b : Nat) : Box := s.dir.box b

/-- Entry `e`; absent when free. -/
def State.entry (s : State) (e : Nat) : Option Entry := s.dir.entries.find e

/-- Port `p`. -/
def State.port (s : State) (p : Nat) : Port := s.ports.read Port.cold p

/-- The lamp record of box `b`. -/
def State.lamp (s : State) (b : Nat) : Lamp := s.lamps.read Lamp.unmapped b

/-- The record of shelf `n`. -/
def State.shelf (s : State) (n : Nat) : Shelf := s.line.shelves.read Shelf.cold n

/-- The members of list `l`; absent when UNDEFINED (R57). -/
def State.members (s : State) (l : Nat) : Option (List Nat) := s.dir.lists.find l

/-- The day of the clock; absent when UNSET (R105). -/
def State.day (s : State) : Option Nat := s.retention.clock.map Clock.day

/-! ## Writers of State -/

/-- State with the Directory changed by `f`. -/
def State.onDir (s : State) (f : Directory → Directory) : State := { s with dir := f s.dir }

/-- State with the Block Cache changed by `f`. -/
def State.onCache (s : State) (f : Cache → Cache) : State := { s with cache := f s.cache }

/-- State with the Link Interface changed by `f`. -/
def State.onLink (s : State) (f : Link → Link) : State := { s with link := f s.link }

/-- State with the Lamp Line Interface changed by `f`. -/
def State.onLine (s : State) (f : LampLine → LampLine) : State := { s with line := f s.line }

/-- State with the Retention Unit changed by `f`. -/
def State.onRetention (s : State) (f : Retention → Retention) : State :=
  { s with retention := f s.retention }

/-- State with the settings changed by `f`. -/
def State.onSettings (s : State) (f : Settings → Settings) : State :=
  s.onDir fun d => { d with settings := f d.settings }

/-- State with recording `r` holding `v`. -/
def State.setRecording (s : State) (r : Nat) (v : Recording) : State :=
  s.onDir fun d => { d with recordings := d.recordings.put r v }

/-- State with recording `r` changed by `f`, where it is not EMPTY. -/
def State.onRecording (s : State) (r : Nat) (f : Recording → Recording) : State :=
  match s.recording r with
  | none => s
  | some v => s.setRecording r (f v)

/-- State with record `r` EMPTY. -/
def State.emptyRecording (s : State) (r : Nat) : State :=
  s.onDir fun d => { d with recordings := d.recordings.drop r }

/-- State with box `b` holding `v`. -/
def State.setBox (s : State) (b : Nat) (v : Box) : State :=
  s.onDir fun d => { d with boxes := d.boxes.write Box.unassigned b v }

/-- State with box `b` changed by `f`. -/
def State.onBox (s : State) (b : Nat) (f : Box → Box) : State := s.setBox b (f (s.box b))

/-- State with entry `e` holding `v`. -/
def State.setEntry (s : State) (e : Nat) (v : Entry) : State :=
  s.onDir fun d => { d with entries := d.entries.put e v }

/-- State with entry `e` free. -/
def State.freeEntry (s : State) (e : Nat) : State :=
  s.onDir fun d => { d with entries := d.entries.drop e }

/-- State with port `p` holding `v`. -/
def State.setPort (s : State) (p : Nat) (v : Port) : State :=
  { s with ports := s.ports.write Port.cold p v }

/-- State with port `p` changed by `f`. -/
def State.onPort (s : State) (p : Nat) (f : Port → Port) : State := s.setPort p (f (s.port p))

/-- State with the lamp record of box `b` holding `v`. -/
def State.setLamp (s : State) (b : Nat) (v : Lamp) : State :=
  { s with lamps := s.lamps.write Lamp.unmapped b v }

/-- State with the lamp record of box `b` changed by `f`. -/
def State.onLamp (s : State) (b : Nat) (f : Lamp → Lamp) : State := s.setLamp b (f (s.lamp b))

/-- State with shelf `n` changed by `f`. -/
def State.onShelf (s : State) (n : Nat) (f : Shelf → Shelf) : State :=
  s.onLine fun l => { l with shelves := l.shelves.write Shelf.cold n (f (s.shelf n)) }

/-- State with list `l` DEFINED with the members `ms`. -/
def State.setMembers (s : State) (l : Nat) (ms : List Nat) : State :=
  s.onDir fun d => { d with lists := d.lists.put l ms }

/-- State with the queue of waiting lamps changed by `f`. -/
def State.onLampQueue (s : State) (f : List Nat → List Nat) : State :=
  { s with lampQueue := f s.lampQueue }

/-- State with the job queue changed by `f`. -/
def State.onJobs (s : State) (f : List Job → List Job) : State := { s with jobs := f s.jobs }

/-! ## Notices and replies (R178, R180) -/

/-- Does the mask enable a notice kind (R180, R185)? -/
def maskEnables (mask : Nat) (k : NoticeKind) : Bool := mask / 2 ^ (k.code - 1) % 2 == 1

/-- A notice that stands in the transmit FIFO. -/
def OutFrame.isNotice : OutFrame → Bool
  | .notice _ _ _ => true
  | .accepted _ _ _ => false
  | .refused _ _ _ _ => false

/-- The unsent notices of the transmit FIFO: the notice queue (R180). -/
def Link.noticeCount (l : Link) : Nat := (l.fifo.filter OutFrame.isNotice).length

/-- Does the transmit FIFO hold a reply not yet completely sent (R178)? -/
def Link.replyUnsent (l : Link) : Bool := l.fifo.any (fun f => !f.isNotice)

/-- A notice is produced: its flag is set; unless it is masked it takes a sequence number and joins
the transmit FIFO, or is lost where 64 notices wait (R180). -/
def Link.raise (l : Link) (k : NoticeKind) (fields : List Field) : Link :=
  let l := { l with flags := l.flags.raised k }
  if maskEnables l.mask k then
    let n := l.sequence
    let l := { l with sequence := (n + 1) % 256 }
    if Config.noticeQueueSize ≤ l.noticeCount then
      { l with lostNotices := sat16 l.lostNotices, flags := { l.flags with noticeLost := true } }
    else { l with fifo := l.fifo ++ [.notice k n fields] }
  else l

/-- A notice is produced (R180). -/
def State.raise (s : State) (k : NoticeKind) (fields : List Field) : State :=
  s.onLink fun l => l.raise k fields

/-- A reply joins the transmit FIFO, carrying the request's kind and tag (R178). -/
def Link.reply (l : Link) (kind tag : Nat) : Reply → Link
  | .accepted fs => { l with fifo := l.fifo ++ [.accepted kind tag fs] }
  | .refused r d => { l with fifo := l.fifo ++ [.refused kind tag r d] }

end Sys2Proof.Machine
end

