-- ==== Sys2Proof/Machine/LampLine.lean ====
section
/-! DEFINITION. The Lamp Unit and the Lamp Line Interface (spec/11, spec/12): the wanted cadence and
its merging, the lamp transmit queue, and what the down-line transmitter sends next. -/

namespace Sys2Proof.Machine

/-! ## The wanted cadence (R63, R160) -/

/-- The remaining frames of a box: Q - charged - reserved, signed (R63). -/
def Directory.remaining (d : Directory) (b : Nat) : Int :=
  (((d.profile b).quota * 50 : Nat) : Int) - (d.box b).charged - (d.box b).reserved

/-- Does the source condition of a box's lamp hold (R159)? -/
def LampSource.lit (src : LampSource) (x : Box) : Bool :=
  match src with
  | .off => false
  | .new => 0 < x.newCount
  | .urgent => 0 < x.urgentNew
  | .any => 0 < x.messages.length

/-- Is a box full for its lamp: by count, or short of frames (R160)? -/
def Directory.lampFull (d : Directory) (b : Nat) : Bool :=
  (d.profile b).maxMessages ≤ (d.box b).messages.length || decide (d.remaining b < Config.shortFrames)

/-- The wanted cadence of box `b`, with source `src` (R160). -/
def Directory.wanted (d : Directory) (b : Nat) (src : LampSource) : Cadence :=
  let x := d.box b
  if x.state = .unassigned ∨ src.lit x = false then .dark
  else if 0 < x.urgentNew ∧ d.settings.fastForUrgent then .fast
  else if d.lampFull b then .slow
  else .steady

/-! ## The down line (R169, R170, R173) -/

/-- The on and off periods of a cadence (R164). -/
def Settings.periods (st : Settings) : Cadence → Nat × Nat
  | .dark => (0, 0)
  | .steady => (0, 0)
  | .slow => (st.slowOn, st.slowOff)
  | .fast => (st.fastOn, st.fastOff)

/-- The order in flight for a shelf (R168). -/
def LampLine.orderOf (l : LampLine) (shelf : Nat) : Option Order :=
  l.orders.find? (fun o => o.shelf == shelf)

/-- The slots with the order of a shelf changed by `f`. -/
def LampLine.onOrder (l : LampLine) (shelf : Nat) (f : Order → Order) : LampLine :=
  { l with orders := l.orders.map (fun o => if o.shelf = shelf then f o else o) }

/-- The slot of a shelf's order is freed; a resend that waits is withdrawn (R171). -/
def LampLine.freeSlot (l : LampLine) (shelf : Nat) : LampLine :=
  { l with
    orders := l.orders.filter (fun o => o.shelf != shelf)
    resends := l.resends.filter (fun n => n != shelf) }

/-- The frame of an order (R170). -/
def Order.frame (o : Order) : DownFrame := .order o.shelf o.station o.number o.cadence o.on o.off

/-- The shelf of box `b`'s lamp. -/
def State.shelfOf (s : State) (b : Nat) : Option Nat := (s.lamp b).station.map Prod.fst

/-- Can a shelf take a new order: UP, not paused, no order in flight (R170)? -/
def State.canOrder (s : State) (shelf : Nat) : Bool :=
  (s.shelf shelf).up && (s.shelf shelf).pausedUntil.isNone && (s.line.orderOf shelf).isNone

/-- The first box of the queue whose shelf can take a new order (R170). -/
def State.nextOrderBox (s : State) : Option Nat :=
  s.lampQueue.find? (fun b => (s.shelfOf b).any s.canOrder)

/-- The oldest box of a shelf in the queue (R173). -/
def State.oldestQueued (s : State) (shelf : Nat) : Option Nat :=
  s.lampQueue.find? (fun b => s.shelfOf b == some shelf)

/-- Can a due probe of a shelf be sent: DOWN, not paused, no order in flight, a box queued (R173,
R175)? -/
def State.canProbe (s : State) (shelf : Nat) : Bool :=
  !(s.shelf shelf).up && (s.shelf shelf).pausedUntil.isNone && (s.line.orderOf shelf).isNone &&
    (s.oldestQueued shelf).isSome

/-- Box `b` leaves the lamp queue and its order, or probe, goes to the transmitter; its record
becomes IN_FLIGHT (R170, R173). -/
def State.sendOrder (s : State) (b : Nat) (probe : Bool) : State :=
  match (s.lamp b).station with
  | none => s
  | some (shelf, station) =>
    let c := (s.lamp b).wanted
    let o : Order :=
      { shelf := shelf, station := station, box := some b, cadence := c,
        on := (s.dir.settings.periods c).1, off := (s.dir.settings.periods c).2,
        number := (s.shelf shelf).nextNumber, resends := 0, probe := probe, timerRunning := false }
    let s := s.onLampQueue (List.erase · b)
    let s := s.onLamp b fun l => { l with state := .inFlight, sent := some c, retries := 0 }
    let s := s.onShelf shelf fun h =>
      { h with nextNumber := (h.nextNumber + 1) % 8, orders := sat16 h.orders }
    s.onLine fun l => { l with
      orders := l.orders ++ [o]
      probesDue := if probe then l.probesDue.filter (fun n => n != shelf) else l.probesDue
      sending := some o.frame }

/-- The idle down-line transmitter takes its next frame: the oldest acknowledgment, the oldest
resend, a due probe, or a new order (R169). -/
def State.downNext (s : State) : State :=
  match s.line.sending with
  | some _ => s
  | none =>
    match s.line.ackQueue with
    | (shelf, n) :: rest =>
      s.onLine fun l => { l with ackQueue := rest, sending := some (.ack shelf n) }
    | [] =>
      match s.line.resends with
      | shelf :: rest =>
        s.onLine fun l => { l with resends := rest, sending := (l.orderOf shelf).map Order.frame }
      | [] =>
        if Config.lampSlots ≤ s.line.orders.length then s
        else
          match s.line.probesDue.find? s.canProbe with
          | some shelf =>
            match s.oldestQueued shelf with
            | some b => s.sendOrder b true
            | none => s
          | none =>
            match s.nextOrderBox with
            | some b => s.sendOrder b false
            | none => s

/-! ## The lamp record (R157 to R163) -/

/-- Box `b` joins the tail of the lamp transmit queue: QUEUED, retries 0, no fail reason, no timer
(R162). -/
def State.joinQueue (s : State) (b : Nat) : State :=
  (s.onLamp b fun l =>
    { l with state := .queued, retries := 0, failReason := none, expiry := none, sent := none }).onLampQueue
    (· ++ [b])

/-- The settle timer of box `b` has run out: the record settles, or joins the queue where wanted is
unlike confirmed (R161). -/
def State.settleExpires (s : State) (b : Nat) : State :=
  if (s.lamp b).confirmed = some (s.lamp b).wanted then
    s.onLamp b fun l => { l with state := .settled, expiry := none }
  else s.joinQueue b

/-- A SETTLED or FAILED record goes to WAITING and its settle timer starts; with a settle setting of
0 the expiry is taken at once (R161). -/
def State.startSettle (s : State) (b : Nat) : State :=
  let s := s.onLamp b fun l =>
    { l with state := .waiting, failReason := none,
             expiry := some (s.now + s.dir.settings.settle * 250) }
  if s.dir.settings.settle = 0 then s.settleExpires b else s

/-- The wanted cadence of box `b` is derived again, and its record acts by its state (R161). -/
def State.recompute (s : State) (b : Nat) : State :=
  let old := s.lamp b
  let w := s.dir.wanted b old.source
  if w = old.wanted then s
  else
    let s := s.onLamp b fun l => { l with wanted := w }
    if old.station = none then s
    else
      match old.state with
      | .settled => (s.startSettle b).downNext
      | .failed => (s.startSettle b).downNext
      | .waiting => s
      | .queued =>
        if old.confirmed = some w then
          ((s.onLamp b fun l => { l with state := .settled }).onLampQueue (List.erase · b)).downNext
        else s
      | .inFlight => s

/-- Recomputes for several boxes, in order. -/
def State.recomputeAll (s : State) (bs : List Nat) : State := bs.foldl State.recompute s

/-- The assigned boxes, ascending. -/
def State.assignedBoxes (s : State) : List Nat :=
  s.dir.boxes.select (fun x => x.state != .unassigned)

/-- The boxes mapped to a shelf, ascending. -/
def State.mappedTo (s : State) (shelf : Nat) : List Nat :=
  s.lamps.select (fun l => l.station.any (fun st => st.1 == shelf))

/-- The box mapped to a (shelf, station) pair: the station map (R158). -/
def State.boxAt (s : State) (shelf station : Nat) : Option Nat :=
  s.lamps.search (fun l => l.station == some (shelf, station))

/-- The box link of the order that serves box `b` is cut (R158, R175). -/
def State.cutLink (s : State) (b : Nat) : State :=
  s.onLine fun l =>
    { l with orders := l.orders.map (fun o => if o.box = some b then { o with box := none } else o) }

/-- The record of box `b` leaves its timer, queue place or order link, by its state (R158, R175). -/
def State.detachLamp (s : State) (b : Nat) : State :=
  match (s.lamp b).state with
  | .settled => s
  | .failed => s
  | .waiting => s.onLamp b fun l => { l with expiry := none }
  | .queued => s.onLampQueue (List.erase · b)
  | .inFlight => s.cutLink b

/-- The station of box `b` is removed (R158). -/
def State.unmapLamp (s : State) (b : Nat) : State :=
  if (s.lamp b).station = none then s
  else
    (s.detachLamp b).onLamp b fun l =>
      { l with station := none, state := .settled, confirmed := none, expiry := none, sent := none,
               retries := 0, failReason := none }

/-- Box `b` takes a station and is queued with its present cadence (R158). -/
def State.mapLamp (s : State) (b shelf station : Nat) : State :=
  let s := s.unmapLamp b
  let s := s.onLamp b fun l =>
    { l with station := some (shelf, station), confirmed := none, retries := 0, failReason := none,
             wanted := s.dir.wanted b l.source }
  (s.joinQueue b).downNext

/-- LAMP_FAIL is raised (R176). -/
def State.raiseLampFail (s : State) (b shelf station : Nat) (why : FailReason) (c : Option Cadence) :
    State :=
  s.raise .lampFail
    ([b2 b, b1 shelf, b1 station, b1 why.code] ++ bOpt (fun c => [b1 (Cadence.code c)]) c)

/-- The record of box `b` becomes FAILED, and LAMP_FAIL is raised (R163, R176). -/
def State.failLamp (s : State) (b shelf station : Nat) (why : FailReason) (c : Option Cadence) :
    State :=
  (s.onLamp b fun l =>
    { l with state := .failed, failReason := some why, confirmed := none, sent := none,
             expiry := none }).raiseLampFail b shelf station why c

/-- SHELF_STATE is raised: shelf, new state (UP, DOWN), cause (NO_ANSWER, ANSWERED, RESTART) and
consecutive failures (R176). -/
def State.raiseShelfState (s : State) (shelf : Nat) (cause : Nat) : State :=
  s.raise .shelfState
    [b1 shelf, b1 (if (s.shelf shelf).up then 0 else 1), b1 cause, b1 (s.shelf shelf).consecutive]

/-- A DOWN shelf comes UP: consecutive failures 0, its probe timer stopped, SHELF_STATE raised
(R173, R174). -/
def State.shelfUp (s : State) (shelf cause : Nat) : State :=
  let s := s.onShelf shelf fun h => { h with up := true, consecutive := 0, probeAt := none }
  let s := s.onLine fun l => { l with probesDue := l.probesDue.filter (fun n => n != shelf) }
  s.raiseShelfState shelf cause

/-- Every FAILED record of a shelf joins the queue tail, ascending (R163). -/
def State.requeueFailed (s : State) (shelf : Nat) : State :=
  ((s.mappedTo shelf).filter (fun b => (s.lamp b).state == .failed)).foldl State.joinQueue s

/-- A record is refreshed by its state (R165). -/
def State.refreshLamp (s : State) (b : Nat) : State :=
  match (s.lamp b).state with
  | .settled => (s.onLamp b fun l => { l with confirmed := none }).joinQueue b
  | .failed => (s.onLamp b fun l => { l with confirmed := none }).joinQueue b
  | .waiting => (s.onLamp b fun l => { l with confirmed := none }).joinQueue b
  | .queued => s.onLamp b fun l => { l with confirmed := none }
  | .inFlight => s.onLamp b fun l => { l with confirmed := none }

end Sys2Proof.Machine
end

