-- ==== Sys2Proof/Machine/Cache.lean ====
section
/-! DEFINITION. The Block Cache and the Flash Scheduler (spec/02): the five requests to the cache,
allocation, the wait queue, and the choice and start of flash operations. All of it acts on `Cache`
alone. -/

namespace Sys2Proof.Machine

/-- Line `n` (R19). -/
def Cache.line (c : Cache) (n : Nat) : Line := c.lines.read Line.invalid n

/-- The cache with line `n` holding `v`. -/
def Cache.setLine (c : Cache) (n : Nat) (v : Line) : Cache :=
  { c with lines := c.lines.write Line.invalid n v }

/-- The line that holds block `b` (R19). -/
def Cache.lineOf (c : Cache) (b : Nat) : Option Nat := c.lines.search (fun l => l.tag == some b)

/-- The pins of line `n`: the number of ports whose pin names it (R19, R20; assumption 10). -/
def Cache.pinCount (c : Cache) (n : Nat) : Nat := c.pins.count (· == n)

/-- Line `n` becomes the most recently used (R20). -/
def Cache.use (c : Cache) (n : Nat) : Cache := { c with recency := c.recency.erase n ++ [n] }

/-- Port `p` pins line `n`, and no other; the line becomes the most recently used (R20). -/
def Cache.pin (c : Cache) (p n : Nat) : Cache := { c.use n with pins := c.pins.put p n }

/-! ## The scheduler (R29 to R31) -/

/-- The number of lines that are MODIFIED or WRITING (R30). -/
def Cache.unwritten (c : Cache) : Nat :=
  c.lines.count (fun l => l.state == .modified || l.state == .writing)

/-- The fill of line `n` starts (R31). -/
def Cache.startFill (c : Cache) (n : Nat) : Cache :=
  { c with inFlight := some ⟨false, n, (c.line n).tag.getD 0⟩ }

/-- The write-back of line `n` starts: the line becomes WRITING (R31). -/
def Cache.startWrite (c : Cache) (n : Nat) : Cache :=
  let l := c.line n
  { c.setLine n { l with state := .writing } with inFlight := some ⟨true, n, l.tag.getD 0⟩ }

/-- The free scheduler chooses: the write-back queue first under write pressure, otherwise urgent
fill, write-back, fill (R30); the chosen line leaves its queue (R29). -/
def Cache.schedule (c : Cache) : Cache :=
  match c.inFlight with
  | some _ => c
  | none =>
    if Config.writePressure ≤ c.unwritten ∧ c.writeQueue ≠ [] then
      match c.writeQueue with
      | n :: rest => { c with writeQueue := rest }.startWrite n
      | [] => c
    else
      match c.urgentQueue, c.writeQueue, c.fillQueue with
      | n :: rest, _, _ => { c with urgentQueue := rest }.startFill n
      | [], n :: rest, _ => { c with writeQueue := rest }.startWrite n
      | [], [], n :: rest => { c with fillQueue := rest }.startFill n
      | [], [], [] => c

/-- Line `n` joins the tail of a fill queue, and a free scheduler looks at its queues (R21, R30). -/
def Cache.queueFill (c : Cache) (n : Nat) (urgent : Bool) : Cache :=
  if urgent then { c with urgentQueue := c.urgentQueue ++ [n] }.schedule
  else { c with fillQueue := c.fillQueue ++ [n] }.schedule

/-- Line `n` joins the tail of the write-back queue where it does not stand in it, and a free
scheduler looks at its queues (R24, R30). -/
def Cache.queueWrite (c : Cache) (n : Nat) : Cache :=
  if n ∈ c.writeQueue then c else { c with writeQueue := c.writeQueue ++ [n] }.schedule

/-- Line `n` leaves the queue it stands in (R29). -/
def Cache.withdraw (c : Cache) (n : Nat) : Cache :=
  { c with
    urgentQueue := c.urgentQueue.erase n
    writeQueue := c.writeQueue.erase n
    fillQueue := c.fillQueue.erase n }

/-! ## Allocation and the wait queue (R26 to R28) -/

/-- May line `n` be evicted: CLEAN or ERROR with no pins (R26)? -/
def Cache.evictable (c : Cache) (n : Nat) : Bool :=
  ((c.line n).state == .clean || (c.line n).state == .error) && c.pinCount n == 0

/-- The line an allocation takes: the lowest-numbered INVALID line with no pins, or else the least
recently used CLEAN or ERROR line with no pins (R26). -/
def Cache.allocatable (c : Cache) : Option Nat :=
  match leastFrom (fun n => (c.line n).state == .invalid && c.pinCount n == 0) Config.numLines 0 with
  | some n => some n
  | none => c.recency.find? (fun n => c.evictable n)

/-- A failed allocation places the least recently used unpinned MODIFIED line in the write-back
queue, where it is not already there (R26). -/
def Cache.promote (c : Cache) : Cache :=
  match c.recency.find? (fun n => (c.line n).state == .modified && c.pinCount n == 0) with
  | none => c
  | some n => c.queueWrite n

/-- Line `n` is given to a TOUCH of block `b`: tagged, FILLING, most recent, its fill queued (R21). -/
def Cache.beginFill (c : Cache) (n b : Nat) (urgent : Bool) : Cache :=
  ((c.setLine n ⟨.filling, some b, false, []⟩).use n).queueFill n urgent

/-- Line `n` is established for block `b`: tagged, silent, MODIFIED, pinned by the capturing port,
most recent (R22). -/
def Cache.setUp (c : Cache) (n b p : Nat) (coding : Coding) : Cache :=
  (c.setLine n ⟨.modified, some b, false, coding.silentPayload⟩).pin p n

/-- Line `n` is given to a wait-queue entry, as the request would have been served on arrival
(R27). -/
def Cache.serve (c : Cache) (n : Nat) (e : WaitEntry) : Cache :=
  match e.kind with
  | .touch urgent => c.beginFill n e.block urgent
  | .establish coding => c.setUp n e.block e.port coding

/-- The head of the wait queue is retried, and each next head while retries succeed; a retry that
fails leaves its entry at the head and promotes (R27). -/
def Cache.retryFrom (c : Cache) : List WaitEntry → Cache
  | [] => c
  | e :: rest =>
    match c.allocatable with
    | none => c.promote
    | some n => Cache.retryFrom ({ c with waitQueue := rest }.serve n e) rest

/-- A line has become available: the wait queue is retried (R27). -/
def Cache.retry (c : Cache) : Cache := c.retryFrom c.waitQueue

/-- Is line `n` available to allocation: INVALID, CLEAN or ERROR with no pins (R20, R27)? -/
def Cache.available (c : Cache) (n : Nat) : Bool :=
  ((c.line n).state == .invalid || (c.line n).state == .clean || (c.line n).state == .error) &&
    c.pinCount n == 0

/-- Port `p` releases its pin; a line left available lets the wait queue be retried (R20). -/
def Cache.unpin (c : Cache) (p : Nat) : Cache :=
  match c.pins.find p with
  | none => c
  | some n =>
    let c := { c with pins := c.pins.drop p }
    if c.available n then c.retry else c

/-! ## The five requests (R21 to R25) -/

/-- The answers to a TOUCH; PRESENT comes with the state of the line (R21). -/
inductive TouchAnswer where
  | present (state : LineState)
  | fillQueued
  | waiting
  | dropped
  deriving DecidableEq, Repr

/-- The answers to an ESTABLISH (R22). -/
inductive EstablishAnswer where
  | established
  | waiting
  | refused
  deriving DecidableEq, Repr

/-- The wait-queue entries, the TOUCH of block `b` made urgent (R21). -/
def makeUrgent (b : Nat) (q : List WaitEntry) : List WaitEntry :=
  q.map fun e =>
    match e.kind with
    | .touch _ => if e.block = b then { e with kind := .touch true } else e
    | .establish _ => e

/-- A request that cannot be given a line joins the wait queue; where that is full it is dropped and
counted, and the answer is no (R26, R28). -/
def Cache.await (c : Cache) (e : WaitEntry) : Cache × Bool :=
  let c := c.promote
  if c.waitQueue.length < Config.waitQueueSize then ({ c with waitQueue := c.waitQueue ++ [e] }, true)
  else ({ c with droppedRequests := sat16 c.droppedRequests }, false)

/-- TOUCH (block b, urgent or normal), made by port `p` (R21). -/
def Cache.touch (c : Cache) (b : Nat) (urgent : Bool) (p : Nat) : Cache × TouchAnswer :=
  match c.lineOf b with
  | some n =>
    if (c.line n).state = .error then
      (((c.use n).setLine n { c.line n with state := .filling }).queueFill n urgent, .fillQueued)
    else (c.use n, .present (c.line n).state)
  | none =>
    if c.waitQueue.any (fun e => e.block == b) then
      (if urgent then { c with waitQueue := makeUrgent b c.waitQueue } else c, .waiting)
    else
      match c.allocatable with
      | some n => (c.beginFill n b urgent, .fillQueued)
      | none =>
        match c.await ⟨.touch urgent, b, p⟩ with
        | (c, true) => (c, .waiting)
        | (c, false) => (c, .dropped)

/-- ESTABLISH (block b, coding, capturing port p) (R22). -/
def Cache.establish (c : Cache) (b : Nat) (coding : Coding) (p : Nat) : Cache × EstablishAnswer :=
  match c.allocatable with
  | some n => (c.setUp n b p coding, .established)
  | none =>
    match c.await ⟨.establish coding, b, p⟩ with
    | (c, true) => (c, .waiting)
    | (c, false) => (c, .refused)

/-- No port pins line `n` (R23). -/
def Cache.clearPins (c : Cache) (n : Nat) : Cache :=
  { c with pins := ⟨c.pins.rows.filter (fun r => r.2 != n)⟩ }

/-- Line `n` becomes INVALID: tag, pins and drop mark cleared, its queue place withdrawn; the wait
queue is retried (R23). -/
def Cache.invalidate (c : Cache) (n : Nat) : Cache :=
  (((c.withdraw n).clearPins n).setLine n Line.invalid).retry

/-- DISCARD (block b): the wait entry of `b` leaves the wait queue, and the line holding `b` is
invalidated or marked drop-on-completion. Answers whether the line was WRITING (R23). -/
def Cache.discard (c : Cache) (b : Nat) : Cache × Bool :=
  let c := { c with waitQueue := c.waitQueue.filter (fun e => e.block != b) }
  match c.lineOf b with
  | none => (c, false)
  | some n =>
    let l := c.line n
    if l.state = .writing then
      ((c.clearPins n).setLine n { l with drop := true }, true)
    else if l.state = .filling ∧ c.inFlight.any (fun op => op.line == n && !op.write) then
      ((c.clearPins n).setLine n { l with drop := true, tag := none }, false)
    else (c.invalidate n, false)

/-- FLUSH (block b): the MODIFIED line of `b`, where no port pins it, joins the write-back queue
(R24). -/
def Cache.flush (c : Cache) (b : Nat) : Cache :=
  match c.lineOf b with
  | none => c
  | some n => if (c.line n).state = .modified ∧ c.pinCount n = 0 then c.queueWrite n else c

/-- A capturing port moves on from the block in the line it pins: the pin is released, and the
MODIFIED line joins the write-back queue (R20, R24). -/
def Cache.moveOn (c : Cache) (p n : Nat) : Cache :=
  let c := if c.pins.find p = some n then { c with pins := c.pins.drop p } else c
  if (c.line n).state = .modified ∧ c.pinCount n = 0 then c.queueWrite n else c

/-- RETAG (block b, block b'): the line holding `b` keeps its payload, takes tag `b'`, becomes
MODIFIED and joins the write-back queue (R25). -/
def Cache.retag (c : Cache) (b b' : Nat) : Cache :=
  match c.lineOf b with
  | none => c
  | some n =>
    (c.setLine n { c.line n with tag := some b', state := .modified, drop := false }).queueWrite n

/-! ## Completions (R32 to R34) -/

/-- A fill ends: the line becomes CLEAN with the data read, ERROR, or, with the drop mark, INVALID
(R32). -/
def Cache.endFill (c : Cache) (n : Nat) (data : Option (List Byte)) : Cache :=
  let l := c.line n
  if l.drop then c.setLine n Line.invalid
  else
    match data with
    | some payload => c.setLine n ⟨.clean, l.tag, false, payload⟩
    | none => c.setLine n { l with state := .error }

/-- A write ends: the line becomes CLEAN, or MODIFIED again when it failed, or, with the drop mark,
INVALID (R33, R34). -/
def Cache.endWrite (c : Cache) (n : Nat) (success : Bool) : Cache :=
  let l := c.line n
  if l.drop then c.setLine n Line.invalid
  else c.setLine n { l with state := if success then .clean else .modified }

/-- After a completion has been handled, a line left available lets the wait queue be retried, and the
scheduler, now free, chooses (R30, R32 to R34; assumption 14). -/
def Cache.afterCompletion (c : Cache) (n : Nat) : Cache :=
  let c := if c.available n then c.retry else c
  { c with inFlight := none }.schedule

/-- The scheduler queue in which line `n` stands, as CACHE QUERY codes it (R36): none, URGENT FILL,
FILL, WRITE-BACK, IN FLIGHT. -/
def Cache.queuedCode (c : Cache) (n : Nat) : Nat :=
  if c.inFlight.any (fun op => op.line == n) then 4
  else if n ∈ c.urgentQueue then 1
  else if n ∈ c.fillQueue then 2
  else if n ∈ c.writeQueue then 3
  else 0

/-- Every line INVALID and every queue empty, the storage counters kept: the cache after a warm
restart and FORMAT (R37). -/
def Cache.emptied (c : Cache) : Cache :=
  { Cache.cold with
    readErrors := c.readErrors
    writeErrors := c.writeErrors
    flashTimeouts := c.flashTimeouts
    droppedRequests := c.droppedRequests }

end Sys2Proof.Machine
end

