-- ==== Sys2Proof/Machine/Store.lean ====
section
/-! DEFINITION. Blocks, the free pool, recordings and references (spec/01), and the pool level
(spec/04, 4.6). -/

namespace Sys2Proof.Machine

/-! ## The pool level (R73, R76) -/

/-- The level after one change of the free count to `n` (R73). -/
def PoolLevel.step : PoolLevel → Nat → PoolLevel
  | .normal, n => if n < 16384 then .low else .normal
  | .low, n => if 20480 ≤ n then .normal else if n < 4096 then .critical else .low
  | .critical, n => if 6144 ≤ n then .low else .critical

/-- The level set from the free count alone, at the end of recovery and of FORMAT (R76). -/
def PoolLevel.fromCount (n : Nat) : PoolLevel :=
  if 16384 ≤ n then .normal else if 4096 ≤ n then .low else .critical

/-- The pool level is evaluated against the free count, outside STARTING; a change raises POOL_LEVEL
with the old level, the new one and the free count (R73). -/
def State.evalLevel (s : State) : State :=
  let old := s.dir.poolLevel
  let n := s.dir.pool.size
  let new := old.step n
  if s.running ∧ new ≠ old then
    (s.onDir fun d => { d with poolLevel := new }).raise .poolLevel [b1 old.code, b1 new.code, b4 n]
  else s

/-! ## Blocks (R1 to R3) -/

/-- The block at the pool head is taken, or the pool is empty (R2). -/
def State.takeBlock (s : State) : Option (Nat × State) :=
  match s.dir.pool.take with
  | none => none
  | some (b, pool) => some (b, (s.onDir fun d => { d with pool := pool }).evalLevel)

/-- Block `b` becomes FREE at the pool tail (R2). -/
def State.appendFree (s : State) (b : Nat) : State :=
  (s.onDir fun d => { d.clearBlock b with pool := d.pool.append b }).evalLevel

/-- Block `b` takes a status other than FREE (R1). -/
def State.setBlock (s : State) (b : Nat) (st : BlockStatus) : State :=
  s.onDir fun d => d.setBlock b st

/-- The next link of a CHAINED block. -/
def Directory.nextOf (d : Directory) (b : Nat) : Option Nat :=
  match d.block b with
  | some (.chained _ n) => n
  | _ => none

/-- The owner of a CHAINED block. -/
def Directory.ownerOf (d : Directory) (b : Nat) : Option Nat :=
  match d.block b with
  | some (.chained r _) => some r
  | _ => none

/-- The next link of CHAINED block `b` set to `n`. -/
def State.setNext (s : State) (b : Nat) (n : Option Nat) : State :=
  match s.dir.block b with
  | some (.chained r _) => s.setBlock b (.chained r n)
  | _ => s

/-- A freed block is discarded from the cache; it goes to the pool tail, or becomes DRAINING where
its line is WRITING (R2, R3, R23). -/
def State.freeBlock (s : State) (b : Nat) : State :=
  match s.cache.discard b with
  | (c, true) => { s with cache := c }.setBlock b .draining
  | (c, false) => { s with cache := c }.appendFree b

/-- Blocks freed one at a time, in order (R2). -/
def State.freeBlocks (s : State) (bs : List Nat) : State := bs.foldl State.freeBlock s

/-! ## Chains and recordings -/

/-- The blocks of a chain from `b` on, at most `fuel` of them, following next links (R1). -/
def Directory.chainFrom (d : Directory) : (fuel : Nat) → Option Nat → List Nat
  | 0, _ => []
  | _ + 1, none => []
  | fuel + 1, some b => b :: d.chainFrom fuel (d.nextOf b)

/-- The chain of a recording, head first (R1). -/
def Directory.chainOf (d : Directory) (v : Recording) : List Nat := d.chainFrom v.blocks (some v.head)

/-- A recording is freed: its chain is freed in chain order and its record becomes EMPTY (R11). -/
def State.freeRecording (s : State) (r : Nat) : State :=
  match s.recording r with
  | none => s
  | some v => (s.freeBlocks (s.dir.chainOf v)).emptyRecording r

/-- A name of recording `r` is created: its count rises by 1 (R10). -/
def State.addRef (s : State) (r : Nat) : State :=
  s.onRecording r fun v => { v with references := v.references + 1 }

/-- A name of recording `r` is released; a count brought to 0 frees the recording at once (R10,
R11). -/
def State.releaseRef (s : State) (r : Nat) : State :=
  match s.recording r with
  | none => s
  | some v =>
    let s := s.setRecording r { v with references := v.references - 1 }
    if v.references ≤ 1 then s.freeRecording r else s

/-- References released one after another, in order. -/
def State.releaseRefs (s : State) (rs : List Nat) : State := rs.foldl State.releaseRef s

/-- A name released, where there is one. -/
def State.releaseOpt (s : State) : Option Nat → State
  | none => s
  | some r => s.releaseRef r

/-- Is recording `r` SEALED (R4)? -/
def State.isSealed (s : State) (r : Nat) : Bool := (s.recording r).any (fun v => v.state == .sealed)

/-- The ESTABLISH of block `b` for port `p` (R22). -/
def State.establish (s : State) (b : Nat) (coding : Coding) (p : Nat) : State :=
  { s with cache := (s.cache.establish b coding p).1 }

/-- A recording opens on port `p`: the lowest EMPTY record and the block at the pool head; absent
when either cannot be had (R5). -/
def State.openRecording (s : State) (p : Nat) (purpose : Purpose) (coding : Coding) (limit : Nat)
    (origin : Option (List Nat)) : Option (Nat × State) :=
  match s.dir.recordings.lowestFree Config.numRecordings with
  | none => none
  | some r =>
    match s.takeBlock with
    | none => none
    | some (b, s) =>
      let v : Recording :=
        { state := .opened, coding := coding, head := b, tail := b, blocks := 1, frames := 0,
          limit := limit, references := 1, peakClass := 0, trimmed := 0,
          created := s.retention.clock, origin := origin, purpose := purpose, cut := false,
          discard := false }
      some (r, ((s.setBlock b (.chained r none)).setRecording r v).establish b coding p)

/-- Block `b` joins the end of recording `r`'s chain (R6). -/
def State.chainBlock (s : State) (r : Nat) (v : Recording) (b : Nat) : State :=
  ((s.setBlock b (.chained r none)).setNext v.tail (some b)).setRecording r
    { v with tail := b, blocks := v.blocks + 1 }

/-- The blocks a recording of `f` frames keeps (R62). -/
def Coding.blocksFor (c : Coding) (f : Nat) : Nat := max 1 (ceilDiv f c.fpb)

/-- The trim of a recording whose trailing run is `run` (R7, R69). -/
def Directory.trimOf (d : Directory) (v : Recording) (run : Nat) : Nat :=
  if v.cut then 0 else min (min (run - d.settings.trimGuard) d.settings.trimCap) v.frames

/-- A recording is truncated: trimmed, cut back to the blocks its frames need, the rest freed in
chain order (R7, R69). -/
def State.truncate (s : State) (r : Nat) (run : Nat) : State :=
  match s.recording r with
  | none => s
  | some v =>
    let t := s.dir.trimOf v run
    let frames := v.frames - t
    let chain := s.dir.chainOf v
    let n := v.coding.blocksFor frames
    let kept := chain.take n
    let tail := kept.getLastD v.head
    ((s.setNext tail none).setRecording r
        { v with trimmed := t, frames := frames, blocks := kept.length, tail := tail }).freeBlocks
      (chain.drop n)

/-- The FLUSH of every block of recording `r` (R8, R24). -/
def State.flushChain (s : State) (r : Nat) : State :=
  match s.recording r with
  | none => s
  | some v => { s with cache := (s.dir.chainOf v).foldl Cache.flush s.cache }

/-- Does a line holding a block of recording `r` still wait for flash: MODIFIED or WRITING (R8)? -/
def State.unwritten (s : State) (r : Nat) : Bool :=
  s.cache.lines.rows.any fun n =>
    (n.2.state == .modified || n.2.state == .writing) &&
      n.2.tag.any (fun b => s.dir.ownerOf b == some r)

/-! ## Write failures (R12, R13) -/

/-- The block before `b` in a chain. -/
def predecessor (b : Nat) : List Nat → Option Nat
  | a :: c :: rest => if c = b then some a else predecessor b (c :: rest)
  | _ => none

/-- Block `b` of recording `r` is retired and replaced in the chain by block `b'`, just taken from
the pool; its line is retagged (R12, R25). -/
def State.replaceBlock (s : State) (r : Nat) (v : Recording) (b b' : Nat) : State :=
  let next := s.dir.nextOf b
  let pre := predecessor b (s.dir.chainOf v)
  let s := (s.setBlock b .retired).setBlock b' (.chained r next)
  let s := match pre with
    | none => s
    | some a => s.setNext a (some b')
  let s := s.setRecording r
    { v with head := if v.head = b then b' else v.head, tail := if v.tail = b then b' else v.tail }
  s.onCache fun c => c.retag b b'

/-- The chain of recording `r` is cut at block `b`: `b` is retired and its line made INVALID, the
blocks after it are freed in chain order, and the blocks before it are kept with their frames. A cut
at the head leaves no recording (R13). -/
def State.cutChain (s : State) (r : Nat) (v : Recording) (b : Nat) : State :=
  let chain := s.dir.chainOf v
  let i := chain.findIdx (· == b)
  let after := chain.drop (i + 1)
  let s := (s.setBlock b .retired).onCache fun c => (c.discard b).1
  if i = 0 then (s.freeBlocks after).emptyRecording r
  else
    let tail := (chain.take i).getLastD v.head
    ((s.setNext tail none).setRecording r
      { v with frames := i * v.coding.fpb, blocks := i, tail := tail, cut := true }).freeBlocks after

end Sys2Proof.Machine
end

