-- ==== Sys2Proof/Machine/Boxes.lean ====
section
/-! DEFINITION. Boxes and message entries (spec/03): how a request names a box and a position, the
bands of a message list, and the creation, removal and marking of an entry; and the accounting of
deposits (spec/04): admission, reservation, coding, settlement. -/

namespace Sys2Proof.Machine

/-! ## Tests of a request (R178, R179) -/

/-- A test that passes with a value, or refuses with a reason and a detail (R179). -/
abbrev Test := Except (Reason × Nat)

/-- A refusal (R179). -/
def refuse {α : Type} (r : Reason) (detail : Nat) : Test α := .error (r, detail)

/-- Refused with `r` unless the condition holds. -/
def require (c : Bool) (r : Reason) (detail : Nat) : Test Unit := if c then .ok () else refuse r detail

/-- A value that must be there, or the refusal `r` with detail 0. -/
def orRefuse {α : Type} (r : Reason) : Option α → Test α
  | some a => .ok a
  | none => refuse r 0

/-- What a request answers: the state after it, and its reply. A test that fails leaves the state as
it was. -/
def answerTest (s : State) : Test (State × List Field) → State × Reply
  | .ok (t, fs) => (t, .accepted fs)
  | .error (r, d) => (s, .refused r d)

/-! ## Naming a box and a message (R39, R50) -/

/-- An extension of the right form: 3 to 6 decimal digits (R39, R185). -/
def extValid (e : List Nat) : Bool :=
  3 ≤ e.length && e.length ≤ 6 && e.all (fun d => 0x30 ≤ d && d ≤ 0x39)

/-- The extension map: the assigned box of an extension (R39). -/
def Directory.boxOfExt (d : Directory) (e : List Nat) : Option Nat :=
  d.boxes.search (fun x => x.state != .unassigned && x.ext == e)

/-- A box named by its extension (R39). -/
def Directory.resolveExt (d : Directory) (e : List Nat) : Test Nat :=
  if extValid e then orRefuse .noBox (d.boxOfExt e) else refuse .range 0

/-- A box named by index or by extension (R39). -/
def Directory.resolve (d : Directory) : BoxRef → Test Nat
  | .index n =>
    if Config.numBoxes ≤ n then refuse .range 0
    else if (d.box n).state = .unassigned then refuse .noBox 0
    else .ok n
  | .ext e => d.resolveExt e
  | .unknown _ => refuse .range 0

/-- The entry at a position of box `b`'s list (R50). -/
def Directory.entryAt (d : Directory) (b pos : Nat) : Test Nat :=
  if pos = 0 ∨ Config.maxMessages < pos then refuse .range 0
  else orRefuse .noEntry ((d.box b).messages[pos - 1]?)

/-! ## Counts and bands (R46, R47) -/

/-- The band of an entry: urgent NEW, NEW, HEARD, KEPT (R47). -/
def Entry.band (v : Entry) : Nat :=
  match v.state with
  | .new => if v.urgent then 0 else 1
  | .heard => 2
  | .kept => 3

/-- The band of entry `e` of the pool. -/
def Directory.bandOf (d : Directory) (e : Nat) : Nat := ((d.entries.find e).map Entry.band).getD 0

/-- Entry `e` placed at the end of band `k` of a list in band order (R47). -/
def Directory.place (d : Directory) (k e : Nat) (list : List Nat) : List Nat :=
  list.takeWhile (fun i => d.bandOf i ≤ k) ++ e :: list.dropWhile (fun i => d.bandOf i ≤ k)

/-- The 1-based position of entry `e` in a list. -/
def positionIn (e : Nat) (list : List Nat) : Nat := list.findIdx (· == e) + 1

/-- The counts of a box raised for an entry (R46). -/
def Box.count (x : Box) (v : Entry) : Box :=
  if v.state = .new then
    { x with newCount := x.newCount + 1, urgentNew := if v.urgent then x.urgentNew + 1 else x.urgentNew }
  else x

/-- The counts of a box lowered for an entry (R46). -/
def Box.uncount (x : Box) (v : Entry) : Box :=
  if v.state = .new then
    { x with newCount := x.newCount - 1, urgentNew := if v.urgent then x.urgentNew - 1 else x.urgentNew }
  else x

/-- The entry of box `b` that refers to recording `r` (R45, R48). -/
def Directory.entryFor (d : Directory) (b r : Nat) : Option Nat :=
  (d.box b).messages.find? (fun e => (d.entries.find e).any (fun v => v.recording == r))

/-- The frames of recording `r`. -/
def State.framesOf (s : State) (r : Nat) : Nat := ((s.recording r).map Recording.frames).getD 0

/-- Do recording `r`'s references stand at 16,383 (R10)? -/
def State.refsFull (s : State) (r : Nat) : Bool :=
  (s.recording r).any (fun v => Config.maxRefs ≤ v.references)

/-- Reported seconds of a number of frames (R62). -/
def secondsOf (frames : Nat) : Nat := ceilDiv frames 50

/-! ## Creation, removal and marking of an entry (R48, R49, R52) -/

/-- Why an entry was not created (R48). -/
inductive CreateFault where
  | duplicate
  | refs
  | entries
  deriving DecidableEq, Repr

/-- An entry for recording `r` is created in box `b` (R48). -/
def State.createEntry (s : State) (b r : Nat) (source : MsgSource) (urgent : Bool)
    (sender : Option (List Nat)) (job : Option Nat) : Except CreateFault (Nat × State) :=
  if (s.dir.entryFor b r).isSome then .error .duplicate
  else if s.refsFull r then .error .refs
  else
    match s.dir.entries.lowestFree Config.numEntries with
    | none => .error .entries
    | some e =>
      let v : Entry :=
        { recording := r, box := b, state := .new, urgent := urgent, source := source,
          deposited := s.retention.clock, stateDay := s.day, sender := sender, job := job }
      let t := (s.setEntry e v).addRef r
      .ok (e, t.onBox b fun x =>
        { x.count v with messages := s.dir.place v.band e x.messages })

/-- Entry `e` is removed: from its box's list and counts, un-charged where its source was charged,
freed, and its reference released (R49). -/
def State.removeEntry (s : State) (e : Nat) : State :=
  match s.entry e with
  | none => s
  | some v =>
    let s := s.onBox v.box fun x =>
      { x.uncount v with
        messages := x.messages.erase e
        charged := if v.source = .broadcast then x.charged else x.charged - s.framesOf v.recording }
    (s.freeEntry e).releaseRef v.recording

/-- Entries removed one after another, in order. -/
def State.removeEntries (s : State) (es : List Nat) : State := es.foldl State.removeEntry s

/-- Entry `e` takes state `st`: its state day, band and box counts follow; an entry already in that
state is left alone (R52). -/
def State.markEntry (s : State) (e : Nat) (st : MsgState) : State :=
  match s.entry e with
  | none => s
  | some v =>
    if v.state = st then s
    else
      let w := { v with state := st, stateDay := s.day }
      let s := (s.setEntry e w).onBox v.box fun x =>
        { (x.uncount v).count w with messages := s.dir.place w.band e (x.messages.erase e) }
      if v.state = .new ∨ st = .new then s.recompute v.box else s

/-- The mark-on-completion of a message: a NEW entry of box `b` for recording `r` is marked HEARD
(R45, R52). -/
def State.markHeard (s : State) (b r : Nat) : State :=
  match s.dir.entryFor b r with
  | none => s
  | some e => if (s.entry e).any (fun v => v.state == .new) then s.markEntry e .heard else s

/-! ## Greeting slots (R55) -/

/-- What a greeting slot holds. -/
def Box.greeting (x : Box) : GreetingSlot → Option Nat
  | .standard => x.standard
  | .busy => x.busy
  | .absence => x.absence
  | .name => x.name

/-- A box with a greeting slot holding `v`. -/
def Box.setGreeting (x : Box) (slot : GreetingSlot) (v : Option Nat) : Box :=
  match slot with
  | .standard => { x with standard := v }
  | .busy => { x with busy := v }
  | .absence => { x with absence := v }
  | .name => { x with name := v }

/-- A greeting slot is emptied and its recording's reference released (R55). -/
def State.clearGreeting (s : State) (b : Nat) (slot : GreetingSlot) : State :=
  let old := (s.box b).greeting slot
  (s.onBox b fun x => x.setGreeting slot none).releaseOpt old

/-- A prompt slot is emptied and its recording's reference released (R14). -/
def State.clearPrompt (s : State) (n : Nat) : State :=
  let old := s.dir.prompts.find n
  (s.onDir fun d => { d with prompts := d.prompts.drop n }).releaseOpt old

/-! ## Absence (R111) -/

/-- Has an absence until day `u` passed on day `day` (R111)? -/
def untilPassed (day u : Nat) : Bool :=
  let diff := (day + 65536 - u) % 65536
  1 ≤ diff && diff ≤ 32767

/-- Has a box's absence passed on a day (R111)? While the clock is UNSET none has. -/
def Box.absencePassed (x : Box) (day : Option Nat) : Bool :=
  x.absent &&
    match x.untilDay, day with
    | some u, some d => untilPassed d u
    | _, _ => false

/-- A box's absence cleared (R56, R111). -/
def Box.clearAbsence (x : Box) : Box := { x with absent := false, untilDay := none, noDeposit := false }

/-! ## Admission and reservation (R64, R65) -/

/-- The four tests of an admission: the reason of the first that fails, or none (R64). -/
def Directory.admission (d : Directory) (b : Nat) : Option Reason :=
  let x := d.box b
  if x.state ≠ .active then some .suspended
  else if (d.profile b).maxMessages ≤ x.messages.length + x.pendingDeposits then some .full
  else if d.remaining b < Config.shortFrames then some .quota
  else if d.poolLevel = .critical then some .pool
  else none

/-- The limit that an admission to box `b` fixes (R65). -/
def Directory.admissionLimit (d : Directory) (b : Nat) : Nat :=
  min ((d.profile b).maxMessage * 50) (d.remaining b).toNat

/-- A refused admission raises the box's refusal counter (R64). -/
def State.countRefusal (s : State) (b : Nat) : State :=
  s.onBox b fun x => { x with refusals := sat16 x.refusals }

/-- The box of an admitted deposit, reserved with its limit (R65). -/
def Box.reserve (x : Box) (limit : Nat) : Box :=
  { x with reserved := x.reserved + limit, pendingDeposits := x.pendingDeposits + 1 }

/-- The box of a settled deposit: the reservation returned and the charge made (R71). -/
def Box.settle (x : Box) (limit charge : Nat) : Box :=
  { x with
    reserved := x.reserved - limit
    pendingDeposits := x.pendingDeposits - 1
    charged := x.charged + charge }

/-- An admitted deposit is reserved with its limit (R65). -/
def State.reserve (s : State) (b limit : Nat) : State :=
  (s.onBox b fun x => x.reserve limit).recompute b

/-- A deposit is settled: the reservation returned and the charge made, in one change (R71). -/
def State.settle (s : State) (b limit charge : Nat) : State :=
  (s.onBox b fun x => x.settle limit charge).recompute b

/-- A deposit is reserved and settled at once with no charge, within one request: the lamp is asked
for once, after the last change (R46, R71, R82). -/
def State.reserveAndSettle (s : State) (b limit : Nat) : State :=
  (s.onBox b fun x => (x.reserve limit).settle limit 0).recompute b

/-! ## Coding and limit of a recording (R66, R67) -/

/-- The coding of a recording that opens now for a target (R66). -/
def Directory.codingFor (d : Directory) (p : Purpose) : Coding :=
  if d.poolLevel = .normal then
    match p with
    | .box b => (d.profile b).coding
    | .greeting _ _ | .prompt _ | .list _ _ => .full
  else .compact

/-- The fixed limit of a target that is no box (R67). -/
def Purpose.fixedLimit : Purpose → Nat
  | .box _ => 0
  | .greeting _ .name => 500
  | .greeting _ .standard | .greeting _ .busy | .greeting _ .absence => 3000
  | .prompt _ => 3000
  | .list _ _ => 6000

/-- The box a target names, for BOX and GREETING. -/
def Purpose.box? : Purpose → Option Nat
  | .box b => some b
  | .greeting b _ => some b
  | .prompt _ => none
  | .list _ _ => none

end Sys2Proof.Machine
end

