-- ==== Sys2Proof/Machine/Jobs.lean ====
section
/-! DEFINITION. Distribution lists and the Job Unit (spec/03, 3.6; spec/06): the cursor of the
active job, how it follows changes of its list, and how a job joins, steps and ends. -/

namespace Sys2Proof.Machine

/-- The cursor on the first of a run of members, or END (R96). -/
def cursorOn : List Nat → Cursor
  | [] => .finished
  | b :: _ => .at b

/-- The cursor on the member after `b`, or END (R96, R98). -/
def cursorAfter (b : Nat) : List Nat → Cursor
  | [] => .finished
  | a :: rest => if a = b then cursorOn rest else cursorAfter b rest

/-- The active job changed by `f` (R93). -/
def onHead (f : Job → Job) : List Job → List Job
  | [] => []
  | j :: rest => f j :: rest

/-- A job becomes active: its cursor rests on its list's first member or on END, or on box 0 for a
RECALL (R96, R100). -/
def State.activated (s : State) (j : Job) : Job :=
  match j.list with
  | none => { j with cursor := .at 0 }
  | some l => { j with cursor := cursorOn ((s.members l).getD []) }

/-- The head of the queue becomes active where it is not (R93). -/
def State.activateHead (s : State) : State :=
  s.onJobs (onHead fun j => if j.cursor = .waiting then s.activated j else j)

/-- The lowest job number that no queued job holds (R94). -/
def freeJobNumber (js : List Job) : Nat :=
  (leastFrom (fun n => js.all (fun j => j.number != n)) 256 0).getD 0

/-- A job joins the queue tail and takes its hold (R93, R95, R100). -/
def State.queueJob (s : State) (recording : Nat) (list : Option Nat) (urgent : Bool) : State :=
  let j : Job :=
    { number := freeJobNumber s.jobs, recording := recording, list := list, urgent := urgent,
      cursor := .waiting, count := 0, inactive := 0, full := 0, duplicate := 0 }
  ((s.addRef recording).onJobs (· ++ [j])).activateHead

/-- Is the job queue full (R93)? -/
def State.jobsFull (s : State) : Bool := Config.maxJobs ≤ s.jobs.length

/-- The outcomes of a job, in the order of R103. -/
inductive JobOutcome where
  | completed
  | cancelled
  | listGone
  | refs
  | entries
  deriving DecidableEq, Repr

/-- The code of a job outcome (R103, R185). -/
def JobOutcome.code : JobOutcome → Nat
  | .completed => 0
  | .cancelled => 1
  | .listGone => 2
  | .refs => 3
  | .entries => 4

/-- The code of a job's kind: DELIVER, RECALL (R93). -/
def Job.kindCode (j : Job) : Nat := if j.list.isSome then 0 else 1

/-- The fields of JOB_DONE (R103). -/
def Job.doneFields (j : Job) (o : JobOutcome) : List Field :=
  [b1 j.number, b1 j.kindCode, b2 j.recording] ++ bOpt (fun l => [b1 l]) j.list ++
    [b1 o.code, b2 j.count, b2 j.inactive, b2 j.full, b2 j.duplicate]

/-- A job ends: JOB_DONE, then its hold is released, then the next job is active (R103). -/
def State.endJob (s : State) (j : Job) (o : JobOutcome) : State :=
  let s := (s.raise .jobDone (j.doneFields o)).releaseRef j.recording
  (s.onJobs (List.filter (fun k => k.number != j.number))).activateHead

/-- The jobs `js` end one after another (R58, R103). -/
def State.endJobs (s : State) (js : List Job) (o : JobOutcome) : State :=
  js.foldl (fun s j => s.endJob j o) s

/-! ## List members (R58 to R60, R98) -/

/-- Box `b` is appended to list `l`; an active job of the list that stands at END moves to it (R59,
R98). -/
def State.addMember (s : State) (l b : Nat) : State :=
  (s.setMembers l ((s.members l).getD [] ++ [b])).onJobs
    (onHead fun j => if j.list = some l ∧ j.cursor = .finished then { j with cursor := .at b } else j)

/-- Box `b` leaves list `l`; an active job whose cursor rests on it moves to the successor first
(R60, R98). -/
def State.removeMember (s : State) (l b : Nat) : State :=
  let ms := (s.members l).getD []
  (s.onJobs (onHead fun j =>
    if j.list = some l ∧ j.cursor = .at b then { j with cursor := cursorAfter b ms } else j)).setMembers l
    (ms.erase b)

/-- The lists that hold box `b`, ascending (R42). -/
def State.listsHolding (s : State) (b : Nat) : List Nat := s.dir.lists.select (fun ms => ms.contains b)

/-! ## One step of the active job (R96, R97, R100) -/

/-- What a DELIVER step finds for the member under its cursor (R97). -/
inductive DeliverTest where
  | inactive
  | full
  | duplicate
  | refs
  | entries
  | serve
  deriving DecidableEq, Repr

/-- The tests of a DELIVER step, in order (R97). -/
def State.deliverTest (s : State) (b r : Nat) : DeliverTest :=
  let x := s.box b
  if x.state ≠ .active then .inactive
  else if (s.dir.profile b).maxMessages ≤ x.messages.length + x.pendingDeposits then .full
  else if (s.dir.entryFor b r).isSome then .duplicate
  else if s.refsFull r then .refs
  else if (s.dir.entries.lowestFree Config.numEntries).isNone then .entries
  else .serve

/-- The active job's cursor moves past box `b` of list `l`, its counts changed by `f` (R96, R97). -/
def State.passMember (s : State) (l b : Nat) (f : Job → Job) : State :=
  let ms := (s.members l).getD []
  s.onJobs (onHead fun j => { f j with cursor := cursorAfter b ms })

/-- A DELIVER step on box `b` (R97, R99). A count of entries created goes on past 16,384, the most that
R93 gives it, where R98 lets a job create more (DESIGN CHOICE; assumption 44). -/
def State.deliverStep (s : State) (j : Job) (l b : Nat) : State :=
  match s.deliverTest b j.recording with
  | .inactive => s.passMember l b fun k => { k with inactive := sat16 k.inactive }
  | .full => s.passMember l b fun k => { k with full := sat16 k.full }
  | .duplicate => s.passMember l b fun k => { k with duplicate := sat16 k.duplicate }
  | .refs => s.endJob j .refs
  | .entries => s.endJob j .entries
  | .serve =>
    let urgent := j.urgent && (s.dir.profile b).urgentAllowed
    match s.createEntry b j.recording .broadcast urgent none (some j.number) with
    | .ok (_, t) => (t.recompute b).passMember l b fun k => { k with count := k.count + 1 }
    | .error _ => s

/-- A RECALL step on box `b`; the step of the last box completes the job (R100). -/
def State.recallStep (s : State) (j : Job) (b : Nat) : State :=
  let s :=
    match s.dir.entryFor b j.recording with
    | none => s
    | some e =>
      ((s.removeEntry e).recompute b).onJobs (onHead fun k => { k with count := k.count + 1 })
  if b + 1 < Config.numBoxes then s.onJobs (onHead fun k => { k with cursor := .at (b + 1) })
  else
    match s.jobs with
    | [] => s
    | k :: _ => s.endJob k .completed

/-- One step of the active job, if there is one (R96, R100). -/
def State.stepJob (s : State) : State :=
  match s.jobs with
  | [] => s
  | j :: _ =>
    match j.cursor, j.list with
    | .waiting, _ => s
    | .finished, _ => s.endJob j .completed
    | .at b, some l => s.deliverStep j l b
    | .at b, none => s.recallStep j b

end Sys2Proof.Machine
end

