-- ==== Sys2Proof/Machine/PathTest.lean ====
section
/-! DEFINITION. Path tests (spec/10, 10.3): the pattern generator with error insertion, the checker,
and the echo. -/

namespace Sys2Proof.Machine

/-! ## The generator (R154, R155) -/

/-- The exclusive-or of the bits `n` and `y` positions before, in a history with its newest bit
first (R154, R156). -/
def tapBit (n y : Nat) (history : List Bool) : Bool :=
  xor (history.getD (n - 1) false) (history.getD (y - 1) false)

/-- The next bit of the sequence: the seed from its bit n - 1 down, then the taps (R154). -/
def PathTest.produce (t : PathTest) : Bool × PathTest :=
  let b :=
    if t.register.length < t.n then t.seed / 2 ^ (t.n - 1 - t.register.length) % 2 == 1
    else tapBit t.n t.y t.register
  (b, { t with register := (b :: t.register).take t.n })

/-- Does the RATE in force invert the next bit, and its count after that bit (R155)? -/
def PathTest.rateStep (t : PathTest) : Bool × Nat :=
  match t.rate with
  | none => (false, t.rateCount)
  | some k => if t.rateCount + 1 = 10 ^ k then (true, 0) else (false, t.rateCount + 1)

/-- The next bit as it leaves the port; `first` marks the most significant bit of a byte (R155). -/
def PathTest.send (t : PathTest) (first : Bool) : Bool × PathTest :=
  let made := t.produce
  let rated := t.rateStep
  let invert := (t.single && first) || rated.1
  (xor made.1 invert,
    { made.2 with
      single := t.single && !first
      rateCount := rated.2
      inserted := if invert then sat32 t.inserted else t.inserted })

/-- The next `k` bits, the first of them a byte's most significant where `first` says so. -/
def PathTest.sendBits (t : PathTest) : (k : Nat) → (first : Bool) → List Bool × PathTest
  | 0, _ => ([], t)
  | k + 1, first =>
    let one := t.send first
    let rest := PathTest.sendBits one.2 k false
    (one.1 :: rest.1, rest.2)

/-- The next `k` bytes (R152). -/
def PathTest.sendBytes (t : PathTest) : (k : Nat) → List Byte × PathTest
  | 0 => ([], t)
  | k + 1 =>
    let one := t.sendBits 8 true
    let rest := PathTest.sendBytes one.2 k
    (byteOfBits one.1 :: rest.1, rest.2)

/-! ## The checker (R156) -/

/-- The newest 64 results, the newest last (R156). -/
def lastResults (w : List Bool) : List Bool := w.drop (w.length - 64)

/-- A port in a path test takes one received bit (R156). -/
def Port.checkBit (p : Port) (b : Bool) : Port :=
  match p.pathTest with
  | none => p
  | some t =>
    let u := { t with history := (b :: t.history).take t.n }
    if t.history.length < t.n then { p with pathTest := some u }
    else
      let wrong := tapBit t.n t.y t.history != b
      if t.inSync then
        let w := lastResults (t.window ++ [wrong])
        let p := { p with counters := { p.counters with
          bits := sat32 p.counters.bits
          errors := if wrong then sat24 p.counters.errors else p.counters.errors } }
        if 6 ≤ w.count true then
          { p with pathTest := some { u with inSync := false, window := [], run := 0 } }.countSyncLoss
        else { p with pathTest := some { u with window := w } }
      else if wrong then { p with pathTest := some { u with run := 0 } }
      else if t.run + 1 = 32 then
        { p with pathTest := some { u with inSync := true, window := [], run := 0 } }
      else { p with pathTest := some { u with run := t.run + 1 } }

/-- A port in a path test takes the bytes of a frame, most significant bit first (R152). -/
def Port.checkFrame (p : Port) (f : Frame) : Port := (f.flatMap bitsOfByte).foldl Port.checkBit p

/-! ## One frame time of a test (R152, R153) -/

/-- ECHO: the received frame joins the playout queue, and then the port sends silence while priming,
and the head frame from then on (R153; assumption 13). Priming is measured by the depth in force at
the frame time, also where a PLAYOUT SET has changed it (DESIGN CHOICE: assumption 49). -/
def Port.echoFrame (p : Port) (t : PathTest) (depth : Nat) (received : Frame) : Frame × Port :=
  let joined :=
    if p.playout.length < depth then { p with playout := p.playout ++ [⟨0, 0, received⟩] }
    else p.countOverflow
  if t.primed then
    match joined.playout with
    | f :: rest => (f.samples, { joined with playout := rest })
    | [] => (silentFrame, joined.countUnderflow)
  else
    (silentFrame,
      { joined with pathTest := some { t with primed := decide (depth / 2 ≤ joined.playout.length) } })

/-- One frame time of a port in TEST: the frame it sends, and the port after (R152). -/
def Port.testFrame (p : Port) (t : PathTest) (depth : Nat) (received : Frame) : Frame × Port :=
  match t.mode with
  | .echo => p.echoFrame t depth received
  | .patternLine =>
    let sent := t.sendBytes Config.frameSamples
    (sent.1, { p with pathTest := some sent.2 }.checkFrame received)
  | .patternLocal =>
    let sent := t.sendBytes Config.frameSamples
    (silentFrame, { p with pathTest := some sent.2 }.checkFrame sent.1)

/-! ## Starting and ending a test (R152) -/

/-- The seed in force: its low n bits, or n ones where they are all zero (R152). -/
def seedFor (n seed : Nat) : Nat := if seed % 2 ^ n = 0 then 2 ^ n - 1 else seed % 2 ^ n

/-- A path test as it starts (R152). -/
def PathTest.start (mode : TestMode) (n y seed : Nat) : PathTest where
  mode := mode
  n := n
  y := y
  seed := seed
  register := []
  single := false
  rate := none
  rateCount := 0
  inserted := 0
  inSync := false
  history := []
  run := 0
  window := []
  primed := false

/-- The results that end a test (R152). -/
def Port.testResults (p : Port) (t : PathTest) : List Field :=
  [b1 t.mode.code, bf t.inSync, b4 p.counters.bits, b4 p.counters.errors, b2 p.counters.syncLosses,
    b4 t.inserted]

/-- A test ends: the port is IDLE and its generator stopped (R152). Its playout queue is emptied by
RELEASE and ABORT (R147), and by STOP too, of which R147 and R152 say nothing (DESIGN CHOICE: assumption
62). -/
def Port.endTest (p : Port) : Port := { p with state := .idle, pathTest := none, playout := [] }

end Sys2Proof.Machine
end

