-- ==== Sys2Proof/Machine/Playout.lean ====
section
/-! DEFINITION. Play lists and the playout queue (spec/08, 8.3; spec/09, 9.5; spec/10, 10.1): the
resolution and the holds of segments, what of a level is queued next, the lookahead blocks, copying,
the ramps, and the frame sent at a frame time. -/

namespace Sys2Proof.Machine

/-! ## Segments (R118, R119) -/

/-- The segment that plays a recording from a frame to its end. -/
def State.segmentOf (s : State) (kind : SegKind) (r start : Nat) : Segment :=
  ⟨kind, some r, start, s.framesOf r, false⟩

/-- A segment that plays nothing (R14). -/
def Segment.nothing (kind : SegKind) : Segment := ⟨kind, none, 0, 0, false⟩

/-- The call-progress tone (R119). -/
def Segment.callTone : Segment := ⟨.tone, none, 0, Config.toneFrames, false⟩

/-- The segment of a prompt slot; an empty slot plays nothing (R14, R119). -/
def State.promptSegment (s : State) (n : Nat) : Segment :=
  match s.dir.prompts.find n with
  | some r => s.segmentOf .prompt r 0
  | none => Segment.nothing .prompt

/-- A recording named by id: SEALED, or refused (R4). -/
def State.resolveRecording (s : State) (r : Nat) : Test Nat :=
  if Config.numRecordings ≤ r then refuse .range 0
  else if s.isSealed r then .ok r
  else refuse .noRecording 0

/-- A segment resolved at acceptance (R119). -/
def State.resolveSegment (s : State) : SegmentSpec → Test Segment
  | .message box pos start mark => do
    let m ← orRefuse .range (flagOf mark)
    let b ← s.dir.resolve box
    let e ← s.dir.entryAt b pos
    let v ← orRefuse .noEntry (s.entry e)
    return s.segmentOf (.message b m) v.recording start
  | .greeting box slot => do
    let sl ← orRefuse .range (greetingSlotOf slot)
    let b ← s.dir.resolve box
    let r ← orRefuse .noRecording ((s.box b).greeting sl)
    return s.segmentOf .greeting r 0
  | .prompt n => if Config.numPrompts ≤ n then refuse .range 0 else .ok (s.promptSegment n)
  | .recording id start => do
    let r ← s.resolveRecording id
    return s.segmentOf .recording r start
  | .tone => .ok Segment.callTone
  | .silence n => .ok ⟨.silence, none, 0, clampTo 1 500 n, false⟩
  | .unknown _ => refuse .range 0

/-- Segments resolved in list order; a refusal gives the index of its segment, from 1 (R118). -/
def State.resolveSegments (s : State) : (index : Nat) → List SegmentSpec → Test (List Segment)
  | _, [] => .ok []
  | i, g :: rest =>
    match s.resolveSegment g with
    | .error (r, _) => refuse r i
    | .ok v =>
      match s.resolveSegments (i + 1) rest with
      | .error e => .error e
      | .ok vs => .ok (v :: vs)

/-- The recordings that segments hold, one for each recording-backed segment (R118). -/
def holdsOf (gs : List Segment) : List Nat := gs.filterMap Segment.recording

/-- The first segment, from 1, whose hold would take its recording above 16,383 references (R118). -/
def State.overflowing (s : State) : (taken : List Nat) → (index : Nat) → List Segment → Option Nat
  | _, _, [] => none
  | taken, i, g :: rest =>
    match g.recording with
    | none => s.overflowing taken (i + 1) rest
    | some r =>
      let refs := ((s.recording r).map Recording.references).getD 0
      if Config.maxRefs < refs + taken.count r + 1 then some i
      else s.overflowing (r :: taken) (i + 1) rest

/-- Every hold of a play list is taken (R10, R118). -/
def State.takeHolds (s : State) (gs : List Segment) : State := (holdsOf gs).foldl State.addRef s

/-- The frames a segment plays. -/
def Segment.length (g : Segment) : Nat := g.stop - g.start

/-! ## Levels -/

/-- A level with its first segment current (R118). -/
def Level.of (gs : List Segment) : Level := ⟨1, gs, (gs.head?.map Segment.start).getD 0⟩

/-- The first frame, with its segment's index, of the segments from index `k` on. -/
def firstFrame : (k : Nat) → List Segment → Option (Nat × Nat)
  | _, [] => none
  | k, g :: rest => if g.start < g.stop then some (k, g.start) else firstFrame (k + 1) rest

/-- The segments of a level from index `k` on. -/
def Level.from (l : Level) (k : Nat) : List Segment := l.segments.drop (k - l.index)

/-- Frame `f` of segment `k`, or the first frame after that segment's end; none past the level's
last frame. -/
def Level.frameAt (l : Level) (k f : Nat) : Option (Nat × Nat) :=
  match l.from k with
  | [] => none
  | g :: rest => if f < g.stop then some (k, f) else firstFrame (k + 1) rest

/-- The recordings a level holds. -/
def Level.holds (l : Level) : List Nat := holdsOf l.segments

/-- The holds of a port's play levels, in the order in which they are released: the active level,
then each stacked frame from the top down (R125). -/
def Port.playHolds (q : Port) : List Nat :=
  (q.level.map Level.holds).getD [] ++ q.stack.flatMap Level.holds

/-! ## Blocks and the lookahead (R149) -/

/-- The block of recording `r` that holds its frame `f` (R6). -/
def State.blockOf (s : State) (r f : Nat) : Option Nat :=
  match s.recording r with
  | none => none
  | some v => (s.dir.chainOf v)[f / v.coding.fpb]?

/-- The coding of recording `r`. -/
def State.recCoding (s : State) (r : Nat) : Coding := ((s.recording r).map Recording.coding).getD .full

/-- The start block of the next recording-backed segment that plays something (R149). -/
def State.nextStart (s : State) : List Segment → Option Nat
  | [] => none
  | g :: rest =>
    match g.recording with
    | none => s.nextStart rest
    | some r => if g.start < g.stop then s.blockOf r g.start else s.nextStart rest

/-- The lookahead blocks of a level whose next frame to be queued is frame `f` of segment `k` (R149;
assumption 25). A block that is at once both of them, as where a recording's last block is followed by a
segment that starts in it, stands here once, so that each event touches it once (DESIGN CHOICE: assumption
66). -/
def State.lookaheadAt (s : State) (l : Level) (k f : Nat) : List Nat :=
  match l.from k with
  | [] => []
  | g :: rest =>
    match g.recording with
    | none => (s.nextStart rest).toList
    | some r =>
      let fpb := (s.recCoding r).fpb
      let after := (f / fpb + 1) * fpb
      ((s.blockOf r f).toList ++
        (if after < g.stop then s.blockOf r after else s.nextStart rest).toList).dedup

/-- Is port `p`'s queue fill below half its depth (R149)? -/
def State.fillLow (s : State) (p : Nat) : Bool :=
  (s.port p).playout.length < s.dir.settings.depth p / 2

/-- Port `p` touches block `b`, urgently where its fill is below half the depth (R149). -/
def State.touchFor (s : State) (p b : Nat) : State :=
  let urgent := s.fillLow p
  s.onCache fun c => (c.touch b urgent p).1

/-- Port `p` touches blocks in order. At an event that touches both lookahead blocks, the block of the next
frame comes before the block after it, an order that R149 does not give (DESIGN CHOICE: assumption 63). -/
def State.touchAll (s : State) (p : Nat) (bs : List Nat) : State :=
  bs.foldl (fun s b => s.touchFor p b) s

/-- The lookahead blocks of port `p` as its next frame now gives them. -/
def State.lookaheadOf (s : State) (p : Nat) : List Nat :=
  match (s.port p).level, (s.port p).next with
  | some l, some (k, f) => s.lookaheadAt l k f
  | _, _ => []

/-- Port `p`'s lookahead blocks are taken anew, and those that were none before are touched (R149). -/
def State.renewLookahead (s : State) (p : Nat) : State :=
  let old := (s.port p).lookahead
  let new := s.lookaheadOf p
  (s.onPort p fun q => { q with lookahead := new }).touchAll p (new.filter (fun b => !old.contains b))

/-- Does port `p` pin the line that holds block `b`? -/
def State.copiesFrom (s : State) (p b : Nat) : Bool :=
  match s.cache.pins.find p with
  | none => false
  | some n => (s.cache.line n).tag == some b

/-- The fill has fallen below half the depth: each lookahead block, as the next frame now gives them,
that is not yet copied from is touched (R149). -/
def State.touchLow (s : State) (p : Nat) : State :=
  s.touchAll p ((s.lookaheadOf p).filter (fun b => !s.copiesFrom p b))

/-- The block that holds port `p`'s next frame to be queued, where a recording's frame is next (R149). -/
def State.nextBlock (s : State) (p : Nat) : Option Nat :=
  match (s.port p).level, (s.port p).next with
  | some l, some (k, f) =>
    match l.from k with
    | [] => none
    | g :: _ => g.recording.bind fun r => s.blockOf r f
  | _, _ => none

/-- Has port `p` to touch block `b` again at a frame time: does no line hold it, and no entry of the wait
queue ask for it, as after a DROPPED TOUCH or an eviction (R149)? The block of the next frame is left to
the copy of the same frame time, where that will be made (R148; assumption 60). -/
def State.touchesAgain (s : State) (p b : Nat) : Bool :=
  (s.cache.lineOf b).isNone && s.cache.waitQueue.all (fun e => e.block != b) &&
    !(s.nextBlock p == some b && (s.port p).playout.length < s.dir.settings.depth p)

/-- At a frame time, each lookahead block whose TOUCH was DROPPED, or whose line has been evicted before
the port copied from it, is touched again (R149; assumption 60). -/
def State.touchMissing (s : State) (p : Nat) : State :=
  s.touchAll p ((s.lookaheadOf p).filter (s.touchesAgain p))

/-! ## Copying (R148) -/

/-- Frame `f` of segment `k` is queued with the samples `x`, and the frame after it is next (R148). The
entry's frame number is that of the recording, counted from its frame 0 and not from the segment's
start frame (R147; DESIGN CHOICE; assumption 46). -/
def State.queueFrame (s : State) (p : Nat) (l : Level) (k f : Nat) (x : Frame) : State :=
  s.onPort p fun q =>
    { q with playout := q.playout ++ [⟨k, f, x⟩], next := l.frameAt k (f + 1) }

/-- What port `p` finds for frame `f` of recording `r` in block `b` (R148). -/
inductive CopySource where
  | samples (line : Nat) (x : Frame)
  | unreadable
  | notYet
  | absent
  deriving DecidableEq, Repr

/-- Where a frame of a recording can be had from (R148). -/
def State.copySource (s : State) (r b f : Nat) : CopySource :=
  match s.cache.lineOf b with
  | none => .absent
  | some n =>
    let l := s.cache.line n
    let c := s.recCoding r
    match l.state with
    | .clean => .samples n (c.decode (payloadFrame l.payload (f % c.fpb) c.frameBytes))
    | .error => .unreadable
    | .invalid | .filling | .modified | .writing => .notYet

/-- Port `p` has queued frame `f` of recording `r` in segment `g`: where that was the last frame the
segment needs from its block the pin is released, and then the lookahead moves on (R148; DESIGN CHOICE
for the order of the two: assumption 55). It moves on at once, as R149 defines the lookahead blocks by
the next frame to be queued; the worked sequence of spec/10 touches one block later (DESIGN CHOICE:
assumption 47). -/
def State.leaveBlock (s : State) (p r : Nat) (g : Segment) (f : Nat) : State :=
  let fpb := (s.recCoding r).fpb
  if g.stop ≤ f + 1 ∨ (f + 1) / fpb ≠ f / fpb then
    (s.onCache fun c => c.unpin p).renewLookahead p
  else s

/-- Port `p` pins line `n` where it has not pinned it already (R148, R20). -/
def State.pinFor (s : State) (p n : Nat) : State :=
  if s.cache.pins.find p = some n then s else s.onCache fun c => c.pin p n

/-- Port `p` copies its next frame; none when the frame cannot be had, with the state in which the
attempt leaves the module (R148). The line is looked at anew for each frame, so a line that leaves ERROR
while the segment still needs frames of its block is then met in its new state: copying stops while it is
FILLING, touches the block again where no line holds it, and copies once it is CLEAN (R148 has silence for
each frame still needed, and does not say when the line is looked at; DESIGN CHOICE: assumption 61). -/
def State.copyNext (s : State) (p : Nat) : State × Bool :=
  match (s.port p).level, (s.port p).next with
  | some l, some (k, f) =>
    match l.from k with
    | [] => (s, false)
    | g :: _ =>
      match g.recording with
      | none =>
        let x := if g.kind = .tone then toneFrame f else silentFrame
        let s := s.queueFrame p l k f x
        (if g.stop ≤ f + 1 then s.renewLookahead p else s, true)
      | some r =>
        match s.blockOf r f with
        | none => (s, false)
        | some b =>
          match s.copySource r b f with
          | .samples n x => (((s.pinFor p n).queueFrame p l k f x).leaveBlock p r g f, true)
          | .unreadable => ((s.queueFrame p l k f silentFrame).leaveBlock p r g f, true)
          | .notYet => (s, false)
          | .absent => (s.touchFor p b, false)
  | _, _ => (s, false)

/-- Port `p` copies frames until its queue is full or the next cannot be had (R148). -/
def State.copyFrames (s : State) (p : Nat) : (fuel : Nat) → State
  | 0 => s
  | fuel + 1 =>
    if (s.port p).playout.length < s.dir.settings.depth p then
      match s.copyNext p with
      | (t, true) => State.copyFrames t p fuel
      | (t, false) => t
    else s

/-- An attempt of port `p` to copy: at most the 64 frames that the largest depth holds (R147, R148). -/
def State.copy (s : State) (p : Nat) : State :=
  if (s.port p).state = .playing then s.copyFrames p 64 else s

/-! ## Starting and dropping levels -/

/-- Port `p` lets its line go (R20). -/
def State.dropPin (s : State) (p : Nat) : State := s.onCache fun c => c.unpin p

/-- A level becomes the active level of port `p`, with nothing queued and a fade-in before it (R120,
R123, R144); its lookahead blocks are touched (R149). -/
def State.startLevel (s : State) (p : Nat) (l : Level) : State :=
  let s := s.onPort p fun q =>
    { q with level := some l, playout := [], next := l.frameAt l.index l.position, lookahead := [],
             fadeIn := some 1 }
  s.renewLookahead p

/-- The port with no play level: nothing queued, no ramp (R125). -/
def Port.silenced (q : Port) : Port :=
  { q with level := none, stack := [], playout := [], next := none, lookahead := [], fadeIn := none,
           stopFade := none }

/-- The port at rest: IDLE, or FREE where it has no slot (R123, R126). -/
def Port.rested (q : Port) : Port :=
  { q.silenced with state := if q.slot.isSome then .idle else .free, op := none, capture := [],
                    pathTest := none }

/-! ## Ramps and the frame sent (R143 to R145, R150) -/

/-- Is the segment after index `k` of a level a TONE, the tone that follows an admitted greeting
counted as one (R145)? -/
def Port.toneFollows (q : Port) (l : Level) (k : Nat) : Bool :=
  match l.from (k + 1) with
  | g :: _ => g.kind == .tone
  | [] => q.op.any (fun o => o.phase == .greeting && o.depositHeld)

/-- The gain of the fade before a tone for frame `f` of segment `k`, where one applies (R145). -/
def Port.toneGain (q : Port) (st : Settings) (l : Level) (k f : Nat) : Option Nat :=
  match l.from k with
  | [] => none
  | g :: _ =>
    let j := g.stop - f
    if 1 ≤ j ∧ j ≤ 8 ∧ q.toneFollows l k then some (gainOf st.fadeOut (9 - j)) else none

/-- The smallest of the gains that apply to a frame (R145). -/
def leastGain : List (Option Nat) → Option Nat
  | [] => none
  | none :: rest => leastGain rest
  | some g :: rest =>
    match leastGain rest with
    | none => some g
    | some h => some (min g h)

/-- A frame under a gain, where one applies (R143). -/
def underGain (g : Option Nat) (f : Frame) : Frame :=
  match g with
  | none => f
  | some g => scaleFrame g f

/-- The fade-in step after one frame sent (R144). -/
def nextFadeIn : Option Nat → Option Nat
  | none => none
  | some k => if k < 8 then some (k + 1) else none

/-- The port's ramp position after one frame sent (R124, R143, R144). -/
def Port.rampStep (q : Port) : Port :=
  { q with
    fadeIn := nextFadeIn q.fadeIn
    stopFade := q.stopFade.map fun x => { x with step := min 9 (x.step + 1) } }

/-- The fade-in after frame `x` has been sent within a STOP fade: where it was its segment's last, the
next segment starts, and takes its fade-in from step 1; outside a STOP fade the segment completes, and
its completion starts the next (R144, R145). -/
def Port.fadeOn (q : Port) (l : Level) (x : QueuedFrame) : Port :=
  if q.stopFade.isSome then
    match l.frameAt x.segment (x.number + 1) with
    | none => { q with fadeIn := none }
    | some n => if n.1 = x.segment then q else { q with fadeIn := some 1 }
  else q

/-- The frame that a PLAYING port sends at a frame time, and the port after it (R150). In a STOP fade the
silence past the list's end is sent from the empty queue, and never joins it (R124, R148; DESIGN CHOICE:
assumption 54). -/
def Port.sendFrame (q : Port) (st : Settings) (l : Level) : Frame × Port :=
  match q.playout with
  | x :: rest =>
    let gain := leastGain
      [q.fadeIn.map (gainOf st.fadeIn), q.stopFade.map (fun f => gainOf st.fadeOut f.step),
        q.toneGain st l x.segment x.number]
    let sent := if x.segment = l.index then { l with position := x.number + 1 } else l
    (underGain gain x.samples, ({ q with playout := rest, level := some sent }).rampStep.fadeOn l x)
  | [] =>
    if q.stopFade.isSome ∧ q.next = none then (silentFrame, q.rampStep)
    else (silentFrame, q.countUnderflow.rampStep)

end Sys2Proof.Machine
end

