-- ==== Sys2Proof/Machine/Operations.lean ====
section
/-! DEFINITION. The course of a play, an ANSWER or a RECORD from its acceptance to PORT_DONE
(spec/05, spec/08 8.4 to 8.7): the end of an operation, the open at the end of the tone, the end of
capture, sealing and its owners (R8, R87, R90, R91), and the advance of a play level (R120, R123). -/

namespace Sys2Proof.Machine

/-! ## PORT_DONE (R92, R128) -/

/-- The outcomes of PORT_DONE, in the order of R128. -/
inductive PortOutcome where
  | completed
  | stopped
  | deposited
  | notAdmitted
  | greetingOnly
  | empty
  | tooShort
  | hungUpEarly
  | aborted
  | boxGone
  | full
  | jobFull
  | listGone
  | replaced
  | reset
  deriving DecidableEq, Repr

/-- The code of an outcome (R128, R185). -/
def PortOutcome.code : PortOutcome → Nat
  | .completed => 0
  | .stopped => 1
  | .deposited => 2
  | .notAdmitted => 3
  | .greetingOnly => 4
  | .empty => 5
  | .tooShort => 6
  | .hungUpEarly => 7
  | .aborted => 8
  | .boxGone => 9
  | .full => 10
  | .jobFull => 11
  | .listGone => 12
  | .replaced => 13
  | .reset => 14

/-- What PORT_DONE names beside its outcome: the recording with its frames, the box, the entry's
position and the job (R92, R128). -/
structure DoneDetails where
  recording : Option (Nat × Nat)
  box : Option Nat
  position : Option Nat
  job : Option Nat
  deriving DecidableEq, Repr

/-- A PORT_DONE that names nothing. -/
def DoneDetails.nothing : DoneDetails := ⟨none, none, none, none⟩

/-- A PORT_DONE that names a box, where the target has one. -/
def DoneDetails.ofBox (b : Option Nat) : DoneDetails := ⟨none, b, none, none⟩

/-- The fields of PORT_DONE (R128). -/
def doneFields (p : Nat) (op : Operation) (o : PortOutcome) (why : Option EndReason)
    (x : DoneDetails) (underflows : Nat) : List Field :=
  [b1 p, b1 op.code, b1 o.code] ++ bOpt (fun w => [b1 (EndReason.code w)]) why ++
    bOpt (fun r => [b2 r]) (x.recording.map Prod.fst) ++
    bOpt (fun f => [b4 f]) (x.recording.map Prod.snd) ++
    bOpt (fun f => [b2 (secondsOf f)]) (x.recording.map Prod.snd) ++
    bOpt (fun b => [b2 b]) x.box ++ bOpt (fun n => [b1 n]) x.position ++
    bOpt (fun j => [b1 j]) x.job ++ [b2 underflows]

/-- The operation that a port's PORT_DONE names. -/
def Port.operation (q : Port) : Operation :=
  match q.op with
  | none => .play
  | some o => if o.answer then .answer else .record

/-- Port `p` plays nothing, the holds `rs` are released, and its pin after them: in the order in which
R126 lists the two (R20, R125; DEDUCED: assumption 59). -/
def State.silence (s : State) (p : Nat) (rs : List Nat) : State :=
  ((s.onPort p Port.silenced).releaseRefs rs).dropPin p

/-- Every hold of the port's play levels and its pin are released, and it plays nothing (R125). -/
def State.dropPlay (s : State) (p : Nat) : State := s.silence p (s.port p).playHolds

/-- The port returns to rest and PORT_DONE is produced (R92, R128). -/
def State.finish (s : State) (p : Nat) (o : PortOutcome) (why : Option EndReason)
    (x : DoneDetails) : State :=
  let q := s.port p
  (s.onPort p Port.rested).raise .portDone (doneFields p q.operation o why x q.underflowCount)

/-- A deposit that the operation of port `p` holds is settled with a charge (R71). -/
def State.settleHeld (s : State) (p charge : Nat) : State :=
  match (s.port p).op with
  | none => s
  | some o =>
    match o.depositHeld, o.target with
    | true, .box b =>
      (s.onPort p fun q => { q with op := some { o with depositHeld := false } }).settle b o.limit charge
    | _, _ => s

/-- The box that an operation's PORT_DONE names: its target's. -/
def Port.targetBox (q : Port) : Option Nat := q.op.bind fun o => o.target.box?

/-- The end reason that an operation's PORT_DONE carries (R92). -/
def Port.endReason (q : Port) : Option EndReason := q.op.bind OpRecord.endReason

/-- An operation ends without a recording: its holds are released, its deposit is settled with no
charge, and PORT_DONE names the target's box (R85, R92). -/
def State.endOp (s : State) (p : Nat) (o : PortOutcome) : State :=
  let s := (s.dropPlay p).settleHeld p 0
  s.finish p o (s.port p).endReason (.ofBox (s.port p).targetBox)

/-- An operation ends whose recording was freed without an owner, naming the box or nothing (R92). -/
def State.endUnowned (s : State) (p : Nat) (o : PortOutcome) (box : Option Nat) : State :=
  s.finish p o (s.port p).endReason (.ofBox box)

/-- A play list ends (R123, R125). -/
def State.endPlay (s : State) (p : Nat) (o : PortOutcome) (why : Option EndReason) : State :=
  (s.dropPlay p).finish p o why .nothing

/-! ## The open at the end of the tone (R83) -/

/-- The operation record of port `p` changed by `f`. -/
def State.onOp (s : State) (p : Nat) (f : OpRecord → OpRecord) : State :=
  s.onPort p fun q => { q with op := q.op.map f }

/-- Capture begins on port `p` for recording `r`: its queue empty and its detector set (R83, R135). -/
def Port.beginCapture (q : Port) (o : OpRecord) (r : Nat) : Port :=
  { q.silenced with state := .recording, capture := [], detector := Detector.initial,
                    op := some { o with phase := .capture, recording := some r } }

/-- The open of an ANSWER was refused: prompt 3 becomes its play list, or it ends where the prompt is
left out (R83, R84). -/
def State.refusedOpen (s : State) (p : Nat) : State :=
  let g := { s.promptSegment 3 with refusal := true }
  let s := s.onOp p fun o => { o with phase := .refusal }
  match g.recording with
  | none => s.endOp p .notAdmitted
  | some r =>
    if s.refsFull r then s.endOp p .notAdmitted
    else (s.addRef r).startLevel p (Level.of [g])

/-- The tone has ended: the recording opens, or is refused with POOL (R83). The pool level that
chooses the coding is read before the open takes its first block (R66; DESIGN CHOICE: assumption 50). -/
def State.openAtToneEnd (s : State) (p : Nat) (o : OpRecord) : State :=
  let s := s.dropPin p
  match s.openRecording p o.target (s.dir.codingFor o.target) o.limit o.sender with
  | some (r, t) => t.onPort p fun q => q.beginCapture o r
  | none =>
    let s := (s.settleHeld p 0).onOp p fun o => { o with endReason := some .pool }
    if o.answer then s.refusedOpen p else s.endOp p .notAdmitted

/-! ## Sealing and its owners (R8, R87, R90, R91) -/

/-- The port whose operation fills or seals recording `r`. -/
def State.portFilling (s : State) (r : Nat) : Option Nat :=
  s.ports.search (fun q => q.op.any (fun o => o.recording == some r))

/-- What PORT_DONE names of a recording that is kept. -/
def keptRecording (r : Nat) (v : Recording) (box : Option Nat) (pos job : Option Nat) : DoneDetails :=
  ⟨some (r, v.frames), box, pos, job⟩

/-- A box deposit has sealed: the entry and its charge are made together, then the capture hold is
released (R87). -/
def State.sealDeposit (s : State) (p : Nat) (o : OpRecord) (r : Nat) (v : Recording) (b : Nat) : State :=
  let source := if o.answer then MsgSource.caller else MsgSource.recorded
  match s.createEntry b r source o.urgent o.sender none with
  | .ok (e, t) =>
    let t := (t.settleHeld p v.frames).releaseRef r
    t.finish p .deposited o.endReason
      (keptRecording r v (some b) (some (positionIn e (t.box b).messages)) none)
  | .error _ => ((s.settleHeld p 0).releaseRef r).endUnowned p .full (some b)

/-- A greeting has sealed: the slot takes it (R55, R90). -/
def State.sealGreeting (s : State) (p : Nat) (o : OpRecord) (r : Nat) (v : Recording) (b : Nat)
    (slot : GreetingSlot) : State :=
  if (s.box b).state = .unassigned then (s.releaseRef r).endUnowned p .boxGone (some b)
  else
    let old := (s.box b).greeting slot
    let s := (s.addRef r).onBox b fun x => x.setGreeting slot (some r)
    ((s.releaseOpt old).releaseRef r).finish p .replaced o.endReason
      (keptRecording r v (some b) none none)

/-- A prompt has sealed: the slot takes it (R14, R90). -/
def State.sealPrompt (s : State) (p : Nat) (o : OpRecord) (r : Nat) (v : Recording) (n : Nat) : State :=
  let old := s.dir.prompts.find n
  let s := (s.addRef r).onDir fun d => { d with prompts := d.prompts.put n r }
  ((s.releaseOpt old).releaseRef r).finish p .replaced o.endReason (keptRecording r v none none none)

/-- A list recording has sealed: a job is queued for it (R91). -/
def State.sealList (s : State) (p : Nat) (o : OpRecord) (r : Nat) (v : Recording) (l : Nat)
    (urgent : Bool) : State :=
  if (s.members l).isNone then (s.releaseRef r).endUnowned p .listGone none
  else if s.jobsFull then (s.releaseRef r).endUnowned p .jobFull none
  else
    let number := freeJobNumber s.jobs
    ((s.queueJob r (some l) urgent).releaseRef r).finish p .completed o.endReason
      (keptRecording r v none none (some number))

/-- Recording `r` becomes SEALED, or is freed where its discard mark is set (R8, R9). -/
def State.sealNow (s : State) (r : Nat) (v : Recording) : State :=
  match s.portFilling r with
  | none => s
  | some p =>
    match (s.port p).op with
    | none => s
    | some o =>
      if v.discard then (s.releaseRef r).endOp p .aborted
      else
        let s := s.setRecording r { v with state := .sealed }
        match v.purpose with
        | .box b => s.sealDeposit p o r v b
        | .greeting b slot => s.sealGreeting p o r v b slot
        | .prompt n => s.sealPrompt p o r v n
        | .list l u => s.sealList p o r v l u

/-- The seal test: a SEALING recording none of whose lines is MODIFIED or WRITING seals (R8). -/
def State.sealTest (s : State) (r : Nat) : State :=
  match s.recording r with
  | none => s
  | some v => if v.state = .sealing ∧ s.unwritten r = false then s.sealNow r v else s

/-- A recording is abandoned: its capture hold is released, and so it is freed; its operation ends
(R9, R86). -/
def State.abandon (s : State) (p r : Nat) (o : PortOutcome) : State := (s.releaseRef r).endOp p o

/-- Sealing starts (R8). -/
def State.startSealing (s : State) (r : Nat) : State :=
  ((s.onRecording r fun v => { v with state := .sealing }).flushChain r).sealTest r

/-! ## The end of capture (R127, R86) -/

/-- The detector's move to QUIET, where the examination of the last stored frame made it due, with
its counter and flag (R138). -/
def Port.settleQuiet (q : Port) : Port :=
  if q.detector.quietDue then
    { q with detector := { q.detector with state := .quiet, quietDue := false } }.countQuiet
  else q

/-- The port stops capturing: its queue dropped, its detector stopped, CLOSING (R127). A move to QUIET
that the last stored frame made due stands (R138, R140; assumption 6). -/
def Port.closing (q : Port) (why : EndReason) : Port :=
  let q := q.settleQuiet
  { q with
    state := .closing
    capture := []
    detector := { q.detector with timeoutDue := false }
    op := q.op.map fun o => { o with phase := .closing, endReason := some why } }

/-- Capture ends on port `p` with a reason: the pin is released, the recording is truncated and
meets the discard tests, and is abandoned or sealed (R7, R70, R86, R127). -/
def State.endCapture (s : State) (p : Nat) (why : EndReason) : State :=
  match (s.port p).op.bind OpRecord.recording with
  | none => s
  | some r =>
    let d := (s.port p).detector
    let s := ((s.onPort p fun q => q.closing why).dropPin p).truncate r d.trailing
    if d.talkSeen = false then s.abandon p r .empty
    else if s.framesOf r < Config.minFrames then s.abandon p r .tooShort
    else s.startSealing r

/-- A capture is abandoned by ABORT or PORT RESET: the queue dropped, a due move to QUIET made, the pin
released, the recording freed, the operation ended (R9, R85, R92, R138). -/
def State.abandonCapture (s : State) (p : Nat) (o : PortOutcome) : State :=
  let r := (s.port p).op.bind OpRecord.recording
  (((s.onPort p fun q => { q.settleQuiet with capture := [] }).dropPin p).releaseOpt r).endOp p o

/-- An ABORT in CLOSING: the recording's discard mark is set (R9). -/
def State.markDiscard (s : State) (p : Nat) : State :=
  match (s.port p).op.bind OpRecord.recording with
  | none => s
  | some r => s.onRecording r fun v => { v with discard := true }

/-! ## The advance of a play level (R120 to R123, R84) -/

/-- The current segment of port `p`'s level completes: the message is marked, the hold released, and
the next segment is current (R120, R121). -/
def State.completeSegment (s : State) (p : Nat) (l : Level) (g : Segment) (rest : List Segment) : State :=
  let s :=
    match g.kind, g.recording with
    | .message b true, some r => s.markHeard b r
    | _, _ => s
  let s := s.onPort p fun q =>
    { q with
      level := some ⟨l.index + 1, rest, (rest.head?.map Segment.start).getD 0⟩
      fadeIn := if rest = [] then none else some 1 }
  s.releaseOpt g.recording

/-- The phase that an operation takes from the segment now current (R78). -/
def phaseFor (g : Segment) (old : Phase) : Phase :=
  if g.refusal then .refusal else if g.kind = .tone then .tone else old

/-- The base play list of port `p` has come to its end (R83, R84, R123). -/
def State.baseEnds (s : State) (p : Nat) : State :=
  match (s.port p).op with
  | none => s.endPlay p .completed none
  | some o =>
    match o.phase with
    | .tone => s.openAtToneEnd p o
    | .greeting | .refusal | .capture | .closing =>
      if o.noDeposit then s.endOp p .greetingOnly else s.endOp p .notAdmitted

/-- The active level of port `p` has ended: the top frame resumes, or the base list has ended
(R123). -/
def State.levelEnds (s : State) (p : Nat) : State :=
  match (s.port p).stack with
  | l :: rest => (s.onPort p fun q => { q with stack := rest }).startLevel p l
  | [] => s.baseEnds p

/-- Segments that have nothing left to play complete, and levels that have none left end, until a
frame is to be sent or the port has come to rest (R120, R123). -/
def State.advance (s : State) (p : Nat) : (fuel : Nat) → State
  | 0 => s
  | fuel + 1 =>
    match (s.port p).level with
    | none => s
    | some l =>
      match l.segments with
      | [] => State.advance (s.levelEnds p) p fuel
      | g :: rest =>
        if g.stop ≤ l.position then State.advance (s.completeSegment p l g rest) p fuel
        else s.onOp p fun o => { o with phase := phaseFor g o.phase }

/-- More rounds than the segments and levels a port can hold: four lists of 16 segments with their
ends, and the tone and the refusal prompt. -/
def advanceRounds : Nat := 80

/-- Port `p` plays on from where its level stands (R120). -/
def State.playOn (s : State) (p : Nat) : State := s.advance p advanceRounds

/-! ## STOP on a play list (R124, R85) -/

/-- A STOP fade starts. The tone after an admitted greeting is no part of the list that fades: it is
played after the fade (R85, R124; assumption 16). -/
def Port.startFade (q : Port) (all : Bool) : Port :=
  match q.level, q.op with
  | some l, some o =>
    if o.phase = .greeting ∧ o.depositHeld then
      let gs := l.segments.filter (fun g => g.kind != .tone)
      let isTone (k : Nat) : Bool := (l.from k).head?.any (fun g => g.kind == .tone)
      { q with
        level := some { l with segments := gs }
        playout := q.playout.filter (fun x => !isTone x.segment)
        next := q.next.filter (fun n => !isTone n.1)
        stopFade := some ⟨1, all⟩ }
    else { q with stopFade := some ⟨1, all⟩ }
  | _, _ => { q with stopFade := some ⟨1, all⟩ }

/-- The fade of an operation's level ends: its list is released, and the row of R85 is taken. -/
def State.endOpFade (s : State) (p : Nat) (o : OpRecord) (l : Level) : State :=
  let gone := l.segments.filter (fun g => !g.refusal)
  let kept := l.segments.filter Segment.refusal
  match o.phase with
  | .greeting =>
    if o.depositHeld then
      let tone := { Level.of [Segment.callTone] with index := l.index + l.segments.length }
      ((s.silence p l.holds).startLevel p tone).playOn p
    else if o.noDeposit then s.endOp p .greetingOnly
    else if kept = [] then s.endOp p .notAdmitted
    else
      let prompt := { Level.of kept with index := l.index + gone.length }
      ((s.silence p (holdsOf gone)).startLevel p prompt).playOn p
  | .refusal | .tone | .capture | .closing => s.endOp p .notAdmitted

/-- The fade of a play list ends: the level's holds are released, with the all flag every stacked
level's too, then the pin, and the level ends (R20, R123, R124; DEDUCED for the order of holds and pin:
assumption 59). -/
def State.endPlayFade (s : State) (p : Nat) (l : Level) (all : Bool) : State :=
  match (s.port p).stack with
  | top :: rest =>
    if all then s.endPlay p .stopped (some .stop)
    else
      let s := s.onPort p fun q => { q with stopFade := none, stack := rest, level := none }
      (((s.releaseRefs l.holds).dropPin p).startLevel p top).playOn p
  | [] => s.endPlay p .stopped (some .stop)

/-- The STOP fade of port `p` ends (R124 steps 2 and 3). -/
def State.endFade (s : State) (p : Nat) (all : Bool) : State :=
  match (s.port p).level, (s.port p).op with
  | some l, some o => s.endOpFade p o l
  | some l, none => s.endPlayFade p l all
  | none, _ => s

end Sys2Proof.Machine
end

