-- ==== Sys2Proof/Machine/Capture.lean ====
section
/-! DEFINITION. Frame times and captures (spec/08 R115, spec/09, spec/10): the speech detector, the
capture queue, the storing of a frame (R6), and what each port does at a frame time. -/

namespace Sys2Proof.Machine

/-! ## The speech detector (R135 to R139) -/

/-- The last 10 flags of a window, the newest last (R136). -/
def lastFlags (w : List Bool) : List Bool := w.drop (w.length - 10)

/-- Steps 1 to 5 of the examination of a stored frame of class `k` (R136). -/
def Detector.observe (d : Detector) (st : Settings) (k : Nat) : Detector :=
  let speech := decide (st.speechClass ≤ k)
  { d with
    lastClass := k
    window := lastFlags (d.window ++ [speech])
    trailing := if speech then 0 else d.trailing + 1
    examined := d.examined + 1 }

/-- Does the window hold at least M speech flags (R137)? -/
def Detector.hearsSpeech (d : Detector) (st : Settings) : Bool := st.speechCount ≤ d.window.count true

/-- The port's detector examines a stored frame of class `k`: the move to TALK is made at once, and
the tests for QUIET and for the start timeout mark the step that takes them (R136 to R139; assumption
6). -/
def Port.examine (q : Port) (st : Settings) (k : Nat) : Port :=
  let d := q.detector.observe st k
  match q.detector.state with
  | .talk =>
    { q with detector :=
        { d with quietDue := d.quietDue || (decide (k < st.speechClass) && st.quietLength ≤ d.trailing) } }
  | .quiet =>
    if d.hearsSpeech st then
      { q with detector := { d with state := .talk, talkSeen := true } }.countTalk
    else { q with detector := d }
  | .start =>
    if d.hearsSpeech st then
      { q with detector := { d with state := .talk, talkSeen := true } }.countTalk
    else { q with detector := { d with timeoutDue := d.timeoutDue || st.startTimeout ≤ d.examined } }

/-- The detector's move to QUIET, where it is due; with end-on-silence the capture ends (R138). -/
def State.quietStep (s : State) (p : Nat) : State :=
  let q := s.port p
  if q.state = .recording ∧ q.detector.quietDue then
    let s := s.onPort p Port.settleQuiet
    if q.op.any OpRecord.endOnSilence then s.endCapture p .silence else s
  else s

/-- The detector's start timeout, where it is due (R139). -/
def State.timeoutStep (s : State) (p : Nat) : State :=
  let q := s.port p
  if q.state = .recording ∧ q.detector.timeoutDue then s.endCapture p .silence else s

/-- The end of a capture whose recording has reached its limit (R67, R127). -/
def State.limitStep (s : State) (p : Nat) : State :=
  let q := s.port p
  match q.op.bind OpRecord.recording with
  | none => s
  | some r =>
    if q.state = .recording ∧ (s.recording r).any (fun v => v.limit ≤ v.frames) then
      s.endCapture p .limit
    else s

/-- The steps of the detector and of the limit that the last stored frame made due (assumption 6). -/
def State.dueSteps (s : State) (p : Nat) : State := ((s.quietStep p).timeoutStep p).limitStep p

/-! ## Storing a frame (R6, R151) -/

/-- The line in which port `p` stores the next frame of a recording: the line of the tail block,
MODIFIED and pinned by the port (R6, R22). -/
def State.captureLine (s : State) (p : Nat) (v : Recording) : Option Nat :=
  match s.cache.lineOf v.tail with
  | none => none
  | some n =>
    if (s.cache.line n).state = .modified ∧ s.cache.pins.find p = some n then some n else none

/-- Frame `x` is stored in line `n` as the next frame of recording `r`, leaves the capture queue and
is examined (R6, R136). -/
def State.storeFrame (s : State) (p r : Nat) (v : Recording) (n : Nat) (x : Frame) : State :=
  let l := s.cache.line n
  let k := frameClass s.dir.settings.thresholds x
  let place := v.frames % v.coding.fpb
  let payload := payloadPut l.payload place v.coding.frameBytes (v.coding.encode x)
  let s := s.onCache fun c => c.setLine n { l with payload := payload }
  let s := s.setRecording r { v with frames := v.frames + 1, peakClass := max v.peakClass k }
  s.onPort p fun q => { q with capture := q.capture.drop 1 }.examine s.dir.settings k

/-- A recording takes its next block and its line is established; the line of the block left is
unpinned and queued for write-back (R6, R24; assumption 11). None where the pool is empty. -/
def State.growRecording (s : State) (p r : Nat) (v : Recording) : Option State :=
  match s.takeBlock with
  | none => none
  | some (b, s) =>
    let s := (s.chainBlock r v b).establish b v.coding p
    match s.cache.lineOf v.tail with
    | none => some s
    | some n => some (s.onCache fun c => c.moveOn p n)

/-- The head frame of port `p`'s capture queue is stored where its block has a line; it takes a new
block first where it needs one, and an empty pool ends the capture with POOL (R6, R75, R151). -/
def State.storeHead (s : State) (p : Nat) : State :=
  let q := s.port p
  match q.state, q.op.bind OpRecord.recording, q.capture with
  | .recording, some r, x :: _ =>
    match s.recording r with
    | none => s
    | some v =>
      let grown :=
        if v.frames < v.blocks * v.coding.fpb then some s else s.growRecording p r v
      match grown with
      | none => s.endCapture p .pool
      | some t =>
        match t.recording r with
        | none => t
        | some w =>
          match t.captureLine p w with
          | none => t
          | some n => t.storeFrame p r w n x
  | _, _, _ => s

/-- A frame that arrives while the tail block has neither a line nor a wait entry repeats the
ESTABLISH that was refused (R22). -/
def State.repeatEstablish (s : State) (p : Nat) : State :=
  match (s.port p).op.bind OpRecord.recording with
  | none => s
  | some r =>
    match s.recording r with
    | none => s
    | some v =>
      if (s.cache.lineOf v.tail).isNone ∧ (v.blocks - 1) * v.coding.fpb ≥ v.frames ∧
          s.cache.waitQueue.all (fun e => e.block != v.tail) then
        s.establish v.tail v.coding p
      else s

/-- A frame arrives at a RECORDING port: it joins the capture queue, or is dropped as overflow
(R151). -/
def Port.receive (q : Port) (x : Frame) : Port :=
  if q.capture.length < Config.captureQueueSize then { q with capture := q.capture ++ [x] }
  else q.countOverflow

/-! ## A frame time (R115, R150) -/

/-- The frame received on a slot; a slot with none carries silence (assumption 5). -/
def receivedOn (rx : List (Nat × Frame)) (slot : Nat) : Frame :=
  match rx.find? (fun e => e.1 == slot) with
  | some e => wholeFrame e.2
  | none => silentFrame

/-- A PLAYING port sends its frame; where that was its segment's last frame the segment completes;
then the port copies (R120, R148, R150). A fill that falls below half touches, and where it does not, a
lookahead block without a line is touched again (R149; DEDUCED: assumption 60), before the segment
completes (DESIGN CHOICE: assumption 56); one that a raised depth leaves below half without a fall does
not touch for that (DEDUCED: assumption 48). -/
def State.playFrame (s : State) (p : Nat) (l : Level) : Frame × State :=
  let low := s.fillLow p
  let sent := (s.port p).sendFrame s.dir.settings l
  let s := s.setPort p sent.2
  let s := if low = false ∧ s.fillLow p then s.touchLow p else s.touchMissing p
  let s := if (s.port p).stopFade.isSome then s else s.playOn p
  (sent.1, s.copy p)

/-- A STOP fade whose eighth frame has been sent ends (R124; assumption 6). -/
def State.fadeDue (s : State) (p : Nat) : State :=
  match (s.port p).stopFade with
  | some x => if 9 ≤ x.step then s.endFade p x.all else s
  | none => s

/-- What a port does with its slot at a frame time: the frame it sends, and the module after (R115). -/
def State.portFrame (s : State) (p : Nat) (x : Frame) : Frame × State :=
  let q := s.port p
  match q.state with
  | .free => (silentFrame, s)
  | .idle => (silentFrame, s)
  | .closing => (silentFrame, s)
  | .playing =>
    match q.level with
    | none => (silentFrame, s)
    | some l => s.playFrame p l
  | .recording => (silentFrame, (s.onPort p fun q => q.receive x).repeatEstablish p)
  | .test =>
    match q.pathTest with
    | none => (silentFrame, s)
    | some t =>
      let sent := q.testFrame t (s.dir.settings.depth p) x
      (sent.1, s.setPort p sent.2)

/-- One port's part of a frame time (R115). -/
def State.serveFrame (rx : List (Nat × Frame)) (s : State) (p : Nat) : State :=
  let s := s.fadeDue p
  match (s.port p).slot with
  | none => s
  | some slot =>
    let sent := s.portFrame p (receivedOn rx slot)
    { sent.2 with transmit := sent.2.transmit ++ [(slot, sent.1)] }

/-- A frame time: each port in ascending order (R115; assumption 5). -/
def State.framesAll (s : State) (rx : List (Nat × Frame)) : State :=
  (List.range Config.numPorts).foldl (State.serveFrame rx) { s with transmit := [] }

end Sys2Proof.Machine
end

