-- ==== Sys2Proof/Machine/Flash.lean ====
section
/-! DEFINITION. The end of a flash operation (spec/02, 2.6; spec/01, R3, R12, R13): what becomes of
the line, of the block, and of the recording, and STORAGE_FAULT (R35). -/

namespace Sys2Proof.Machine

/-- What became of a block whose operation failed (R35). -/
inductive Disposition where
  | errorLine
  | dropped
  | remapped (block : Nat)
  | cut
  | retired
  deriving DecidableEq, Repr

/-- A disposition as STORAGE_FAULT carries it: its code, and the replacement block of a remap (R35). -/
def Disposition.fields : Disposition → List Field
  | .errorLine => [b1 0]
  | .dropped => [b1 1]
  | .remapped b => [b1 2, b4 b]
  | .cut => [b1 3]
  | .retired => [b1 4]

/-- STORAGE_FAULT is raised: operation (READ, WRITE), cause (FAILED, TIMEOUT), block, line, the owner
of a CHAINED block, disposition (R35). -/
def State.storageFault (s : State) (op : FlashOp) (timeout : Bool) (owner : Option Nat)
    (d : Disposition) : State :=
  s.raise .storageFault
    ([bf op.write, bf timeout, b4 op.block, b2 op.line] ++ bOpt (fun r => [b2 r]) owner ++ d.fields)

/-- The contents of a block of the array. -/
def State.flashBlock (s : State) (b : Nat) : List Byte := s.flash.read unwrittenPayload b

/-- Block `b` of the array is programmed. -/
def State.program (s : State) (b : Nat) (payload : List Byte) : State :=
  { s with flash := s.flash.write unwrittenPayload b payload }

/-- Each PLAYING port that has block `b` as a lookahead block copies (R148; assumption 14). -/
def State.copyWaiting (s : State) (b : Nat) : State :=
  (List.range Config.numPorts).foldl
    (fun s p =>
      if (s.port p).state = .playing ∧ (s.port p).lookahead.contains b then s.copy p else s) s

/-- A fill ends (R32). STORAGE_FAULT names the owner that the block has as its operation ends: R35 gives no
moment, and the block of a line with the drop mark may have been freed and chained to another recording
since the fill started (DESIGN CHOICE: assumption 65). -/
def State.fillEnds (s : State) (op : FlashOp) (success timeout : Bool) : State :=
  let dropped := (s.cache.line op.line).drop
  let owner := s.dir.ownerOf op.block
  let data := if success then some (s.flashBlock op.block) else none
  let s := s.onCache fun c => c.endFill op.line data
  let s :=
    if success then s
    else
      (s.onCache fun c => { c with readErrors := sat16 c.readErrors }).storageFault op timeout owner
        (if dropped then .dropped else .errorLine)
  (s.onCache fun c => c.afterCompletion op.line).copyWaiting op.block

/-- A write has succeeded: the Directory frees a DRAINING block, and repeats the seal test of a
CHAINED block's recording (R3, R8, R33). -/
def State.writeReported (s : State) (b : Nat) : State :=
  match s.dir.block b with
  | some .draining => s.appendFree b
  | some (.chained r _) => s.sealTest r
  | some .retired => s
  | none => s

/-- The chain of recording `r` has been cut at a failed block: an OPEN recording's capture ends, a
SEALING one is tested or abandoned (R13). -/
def State.afterCut (s : State) (r : Nat) (v : Recording) : State :=
  match s.portFilling r with
  | none => s
  | some p =>
    match v.state with
    | .opened => s.endCapture p .pool
    | .sealing | .sealed =>
      if s.framesOf r < Config.minFrames then s.abandon p r .tooShort else s.sealTest r

/-- A write has failed: the Directory retires a DRAINING block, and remaps a CHAINED one or cuts its
chain (R3, R12, R13, R34). -/
def State.writeFailed (s : State) (b : Nat) : State × Disposition :=
  match s.dir.block b with
  | some (.chained r _) =>
    match s.recording r with
    | none => (s, .retired)
    | some v =>
      match s.takeBlock with
      | some (b', t) => ((t.replaceBlock r v b b').sealTest r, .remapped b')
      | none => ((s.cutChain r v b).afterCut r v, .cut)
  | some .draining => (s.setBlock b .retired, .retired)
  | some .retired => (s, .retired)
  | none => (s, .retired)

/-- A write ends (R33, R34). -/
def State.writeEnds (s : State) (op : FlashOp) (success timeout : Bool) : State :=
  let payload := (s.cache.line op.line).payload
  let owner := s.dir.ownerOf op.block
  let s := s.onCache fun c => c.endWrite op.line success
  let s :=
    if success then (s.program op.block payload).writeReported op.block
    else
      let done :=
        (s.onCache fun c => { c with writeErrors := sat16 c.writeErrors }).writeFailed op.block
      done.1.storageFault op timeout owner done.2
  s.onCache fun c => c.afterCompletion op.line

/-- The operation in flight ends (R31). During STARTING its result is discarded (R17, R18, R37). -/
def State.operationEnds (s : State) (op : FlashOp) (success timeout : Bool) : State :=
  if s.running then
    let s :=
      if timeout then s.onCache fun c => { c with flashTimeouts := sat16 c.flashTimeouts } else s
    if op.write then s.writeEnds op success timeout else s.fillEnds op success timeout
  else s.onCache fun c => { c with inFlight := none }

end Sys2Proof.Machine
end

