-- ==== Sys2Proof/Machine/Sweep.lean ====
section
/-! DEFINITION. The Retention Unit (spec/07): the day clock, the day change, and the sweep. -/

namespace Sys2Proof.Machine

/-- A pass starts at box 0 with the clock's day (R108, R112). -/
def State.startPass (s : State) : State :=
  match s.day with
  | none => s
  | some day =>
    s.onRetention fun t => { t with cursor := some 0, sweepDay := some day, expired := 0 }

/-- A day change reaches the sweep; while the module is STARTING it is held (R108, R114). -/
def State.dayChange (s : State) : State :=
  if s.running then
    if s.retention.cursor.isSome then s.onRetention fun t => { t with rerun := true }
    else s.startPass
  else s.onRetention fun t => { t with owed := true }

/-- The clock one minute on (R106). -/
def Clock.nextMinute (c : Clock) : Clock :=
  if c.minute < 1439 then { c with minute := c.minute + 1 } else ⟨(c.day + 1) % 65536, 0⟩

/-- The minute timer expires (R106). -/
def State.minuteExpires (s : State) : State :=
  match s.retention.clock with
  | none => s
  | some c =>
    let s := s.onRetention fun t => { t with clock := some c.nextMinute, minuteStart := s.now }
    if c.minute < 1439 then s else s.dayChange

/-- The retention period of a state (R110). -/
def Profile.retention (p : Profile) : MsgState → Nat
  | .new => p.retainNew
  | .heard => p.retainHeard
  | .kept => p.retainKept

/-- Does an entry expire on sweep day `day` (R110)? -/
def Entry.expires (v : Entry) (p : Profile) (day : Nat) : Bool :=
  match v.stateDay with
  | none => false
  | some d => 0 < p.retention v.state && p.retention v.state ≤ (day + 65536 - d) % 65536

/-- The entries of box `b` that expire on a day, in list order (R109). -/
def State.expiredOf (s : State) (b day : Nat) : List Nat :=
  (s.box b).messages.filter (fun e => (s.entry e).any (fun v => v.expires (s.dir.profile b) day))

/-- The sweep serves box `b` (R109 to R111). The count of expired entries goes on past the 131,072 that
R108 gives as its range (DESIGN CHOICE: assumption 51). -/
def State.sweepBox (s : State) (b day : Nat) : State :=
  if (s.box b).state = .unassigned then s
  else
    let gone := s.expiredOf b day
    let s := s.removeEntries gone
    let s := if (s.box b).absencePassed (some day) then s.onBox b Box.clearAbsence else s
    let s := if gone = [] then s else s.recompute b
    s.onRetention fun t => { t with expired := t.expired + gone.length }

/-- The pass ends: SWEEP_DONE, the sweep cleared, and a rerun where one is marked (R112). -/
def State.endPass (s : State) (day : Nat) : State :=
  let s := s.raise .sweepDone [b2 day, b4 s.retention.expired]
  let rerun := s.retention.rerun
  let s := s.onRetention fun t => { t with cursor := none, sweepDay := none, expired := 0, rerun := false }
  if rerun then s.startPass else s

/-- One sweep step, if a pass is running (R109, R112). -/
def State.stepSweep (s : State) : State :=
  match s.retention.cursor, s.retention.sweepDay with
  | some b, some day =>
    let s := s.sweepBox b day
    if b + 1 < Config.numBoxes then s.onRetention fun t => { t with cursor := some (b + 1) }
    else s.endPass day
  | _, _ => s

end Sys2Proof.Machine
end

