-- ==== Sys2Proof/Machine/Request.lean ====
section
/-! DEFINITION. The Link Interface (spec/13): the receive framer and receive queue (R177), how a
request is taken and answered (R178), and the end of a sent frame (R180). -/

namespace Sys2Proof.Machine

/-- A link frame from its kind, tag and body. -/
def rxFrame (f : Nat × Nat × List Byte) : RxFrame := ⟨f.1, f.2.1, f.2.2⟩

/-! ## The receive framer and queue (R177) -/

/-- A good frame joins the receive queue tail, or is lost where 8 wait (R177). -/
def Link.queueFrame (l : Link) (f : RxFrame) : Link :=
  if l.receiveQueue.length < Config.receiveQueueSize then
    { l with receiveQueue := l.receiveQueue ++ [f] }
  else { l with overruns := sat16 l.overruns }

/-- A frame is discarded: the framing counter rises and the framer hunts (R177). -/
def Link.discardFrame (l : Link) : Link :=
  { l with framer := .hunting, framingErrors := sat16 l.framingErrors }

/-- The body length that the first two bytes after the sync give, high byte first (R184). -/
def bodyLength : List Byte → Option Nat
  | hi :: lo :: _ => some (256 * hi.toNat + lo.toNat)
  | _ => none

/-- The two check bytes and the sum that they should give (R177, R184). -/
def checkHolds (bs : List Byte) : Bool :=
  let inner := bs.take (bs.length - 2)
  bs.drop (bs.length - 2) == leBytes 2 (byteSum inner)

/-- A complete frame, its bytes after the sync, is tested and queued (R177). -/
def Link.completeFrame (l : Link) (bs : List Byte) (n : Nat) : Link :=
  if checkHolds bs then
    { l with framer := .hunting }.queueFrame
      ⟨(bs.getD 2 0).toNat, (bs.getD 3 0).toNat, (bs.drop 4).take n⟩
  else l.discardFrame

/-- The framer takes one byte (R177). -/
def Link.takeByte (l : Link) (b : Byte) : Link :=
  match l.framer with
  | .hunting => if b = byteOf 0xA5 then { l with framer := .collecting [] } else l
  | .collecting bs =>
    let bs := bs ++ [b]
    match bodyLength bs with
    | none => { l with framer := .collecting bs }
    | some n =>
      if Config.maxBody < n then l.discardFrame
      else if bs.length = n + 6 then l.completeFrame bs n
      else { l with framer := .collecting bs }

/-- More than 50 ms without a byte inside a frame (R177). -/
def Link.byteTimeout (l : Link) : Link :=
  match l.framer with
  | .hunting => l
  | .collecting _ => l.discardFrame

/-! ## Taking a request (R178) -/

/-- The reply a body fault brings (R178 test 3). -/
def faultReply : BodyFault → Reply
  | .length => .refused .length 0
  | .range => .refused .range 0

/-- Is a kind byte that of STATUS (R178 test 1)? -/
def isStatusKind (kind : Nat) : Bool := kind == 0x01

/-- A request is handled: while STARTING anything but STATUS is refused; otherwise its own rules
answer; its reply joins the transmit FIFO (R178). -/
def State.handle (s : State) (kind tag : Nat) (h : State → State × Reply) : State :=
  if s.running || isStatusKind kind then
    let done := h s
    done.1.onLink fun l => l.reply kind tag done.2
  else s.onLink fun l => l.reply kind tag (.refused .starting 0)

/-- The head frame leaves the receive queue. -/
def Link.dequeue (l : Link) : Link := { l with receiveQueue := l.receiveQueue.drop 1 }

/-- Is the link free to take a frame: no reply unsent, and none waiting before it (R178)? -/
def Link.isClear (l : Link) : Bool := l.receiveQueue.isEmpty && !l.replyUnsent

/-- A request command is the arrival of its frame. Where the link is free the request is taken at once;
otherwise its frame joins the receive queue, or is lost where 8 wait (R177, R178; assumption 4). -/
def State.request (s : State) (i : Instr) (h : State → State × Reply) : State :=
  match requestFrame i with
  | none => s
  | some (kind, tag, body) =>
    if s.link.isClear then s.handle kind tag h else s.onLink fun l => l.queueFrame ⟨kind, tag, body⟩

/-- The transmitter has sent the last byte of the head frame (R178, R180). -/
def Link.frameSent (l : Link) : Link := { l with fifo := l.fifo.drop 1 }

/-- Notices not yet sent are removed, but for one that is being sent, which is finished; replies stay
(R182, R183). -/
def Link.dropNotices (l : Link) : Link :=
  { l with fifo := l.fifo.take 1 ++ (l.fifo.drop 1).filter (fun f => !f.isNotice) }

end Sys2Proof.Machine
end

