-- ==== Sys2Proof/Machine/BoxRequests.lean ====
section
/-! DEFINITION. The commands on boxes, profiles and messages (spec/03), and TRIM SET (R68). -/

namespace Sys2Proof.Machine

/-- A sequence of items: the count in one byte, then the items (R185). -/
def bSeq (items : List (List Field)) : List Field := b1 items.length :: items.flatten

/-- A code that may be left unchanged: the value in force, refused with RANGE where it is none of the
codes (R41, R185). -/
def changed {α : Type} (present : α) (codes : Nat → Option α) : Option Nat → Test α
  | none => .ok present
  | some n => orRefuse .range (codes n)

/-- A box state that a request may give: ACTIVE or SUSPENDED (R40, R41). -/
def givenStateOf (n : Nat) : Option BoxState := (boxStateOf n).filter (· != .unassigned)

/-! ## Boxes (R40 to R43) -/

/-- BOX ASSIGN (R40). -/
def State.answerBoxAssign (s : State) (ext : List Nat) (cls state : Nat) : State × Reply :=
  answerTest s do
    require (extValid ext) .range 0
    let c ← orRefuse .range (boxClassOf cls)
    let st ← orRefuse .range (givenStateOf state)
    require (s.dir.boxOfExt ext).isNone .exists_ 0
    let b ← orRefuse .full
      (leastFrom (fun b => (s.dir.box b).state == .unassigned) Config.numBoxes 0)
    return (s.setBox b { Box.unassigned with state := st, ext := ext, cls := c }, [b2 b])

/-- BOX ASSIGN (R40). -/
def execBoxAssign (tag : Nat) (ext : List Nat) (cls state : Nat) (s : State) :
    Host.Outcome State Fault Refusal :=
  .next (s.request (.boxAssign tag ext cls state) fun s => s.answerBoxAssign ext cls state)

/-- A new extension: of the right form, and not another box's (R41). -/
def Directory.newExtension (d : Directory) (b : Nat) : Option (List Nat) → Test (List Nat)
  | none => .ok (d.box b).ext
  | some e => do
    require (extValid e) .range 0
    require ((d.boxOfExt e).all (· == b)) .exists_ 0
    return e

/-- BOX SET (R41). -/
def State.answerBoxSet (s : State) (box : BoxRef) (cls state : Option Nat)
    (ext : Option (List Nat)) : State × Reply :=
  answerTest s do
    let b ← s.dir.resolve box
    let x := s.box b
    let c ← changed x.cls boxClassOf cls
    let st ← changed x.state givenStateOf state
    let e ← s.dir.newExtension b ext
    let t := s.onBox b fun x => { x with cls := c, state := st, ext := e }
    return (if c = x.cls then t else t.recompute b, [b1 c.code, b1 st.code] ++ bExt e)

/-- BOX SET (R41). -/
def execBoxSet (tag : Nat) (box : BoxRef) (cls state : Option Nat) (ext : Option (List Nat))
    (s : State) : Host.Outcome State Fault Refusal :=
  .next (s.request (.boxSet tag box cls state ext) fun s => s.answerBoxSet box cls state ext)

/-- Does the recording table hold an OPEN or SEALING recording for a greeting of box `b` (R42)? -/
def State.greetingInProgress (s : State) (b : Nat) : Bool :=
  s.dir.recordings.rows.any fun v =>
    v.2.state != .sealed &&
      match v.2.purpose with
      | .greeting g _ => g == b
      | .box _ | .prompt _ | .list _ _ => false

/-- Box `b`'s lamp record returned to that of an UNASSIGNED box (R42, R158, R159). -/
def State.clearLamp (s : State) (b : Nat) : State :=
  (s.unmapLamp b).onLamp b fun l => { l with source := .new }

/-- The steps of BOX CLEAR, in order (R42). -/
def State.clearBox (s : State) (b : Nat) : State :=
  let s := s.removeEntries (s.box b).messages
  let s := [GreetingSlot.standard, .busy, .absence, .name].foldl (fun s g => s.clearGreeting b g) s
  let s := (s.listsHolding b).foldl (fun s l => s.removeMember l b) s
  ((s.clearLamp b).setBox b Box.unassigned).recompute b

/-- BOX CLEAR; one box may be a member of any number of lists, so the count of those it left travels in 4
bytes (R42, R57, R185), and the count of the entries removed, at most 48, in 1 (R46; DEDUCED: assumption
19). -/
def State.answerBoxClear (s : State) (box : BoxRef) : State × Reply :=
  answerTest s do
    let b ← s.dir.resolve box
    require ((s.box b).pendingDeposits == 0 && !s.greetingInProgress b) .busy 0
    return (s.clearBox b, [b1 (s.box b).messages.length, b4 (s.listsHolding b).length])

/-- BOX CLEAR (R42). -/
def execBoxClear (tag : Nat) (box : BoxRef) (s : State) : Host.Outcome State Fault Refusal :=
  .next (s.request (.boxClear tag box) fun s => s.answerBoxClear box)

/-- The number of entries of a box in a state (R43). -/
def State.countIn (s : State) (x : Box) (st : MsgState) : Nat :=
  (x.messages.filter (fun e => (s.entry e).any (fun v => v.state == st))).length

/-- A greeting slot in BOX INFO: the recording and its seconds, or absent (R43). -/
def State.greetingFields (s : State) (x : Box) (g : GreetingSlot) : List Field :=
  bOpt (fun r => [b2 r, b2 (secondsOf (s.framesOf r))]) (x.greeting g)

/-- The fields of BOX INFO (R43, R63). The counts of NEW, urgent NEW, HEARD and KEPT entries, which a list of
at most 48 entries bounds, travel in 1 byte (R46, R185; DEDUCED: assumption 19). -/
def State.boxFields (s : State) (b : Nat) : List Field :=
  let x := s.box b
  b1 x.state.code :: bExt x.ext ++
    [b1 x.cls.code, b1 x.messages.length, b1 x.newCount, b1 x.urgentNew,
      b1 (s.countIn x .heard), b1 (s.countIn x .kept)] ++
    s.greetingFields x .standard ++ s.greetingFields x .busy ++ s.greetingFields x .absence ++
    s.greetingFields x .name ++ bf x.absent :: bOpt (fun u => [b2 u]) x.untilDay ++
    [bf x.noDeposit, b4 x.charged, b4 x.reserved, b4 ((s.dir.profile b).quota * 50),
      bSigned (s.dir.remaining b), b1 x.pendingDeposits, b2 x.refusals]

/-- BOX INFO (R43). -/
def State.answerBoxInfo (s : State) (box : BoxRef) (clear : Nat) : State × Reply :=
  answerTest s do
    let b ← s.dir.resolve box
    let c ← orRefuse .range (flagOf clear)
    return (if c then s.onBox b fun x => { x with refusals := 0 } else s, s.boxFields b)

/-- BOX INFO (R43). -/
def execBoxInfo (tag : Nat) (box : BoxRef) (clear : Nat) (s : State) :
    Host.Outcome State Fault Refusal :=
  .next (s.request (.boxInfo tag box clear) fun s => s.answerBoxInfo box clear)

/-! ## Profiles (R44) -/

/-- The fields of a profile, in order (R44). -/
def Profile.fields (p : Profile) : List Field :=
  [b1 p.maxMessages, b2 p.quota, b2 p.maxMessage, b2 p.retainNew, b2 p.retainHeard, b2 p.retainKept,
    b1 p.coding.code, bf p.urgentAllowed]

/-- PROFILE READ (R44). -/
def State.answerProfileRead (s : State) (cls : Nat) : State × Reply :=
  answerTest s do
    let c ← orRefuse .range (boxClassOf cls)
    return (s, (s.dir.profiles.of c).fields)

/-- PROFILE READ (R44). -/
def execProfileRead (tag cls : Nat) (s : State) : Host.Outcome State Fault Refusal :=
  .next (s.request (.profileRead tag cls) fun s => s.answerProfileRead cls)

/-- A profile as PROFILE SET takes it: its numbers clamped (R44). -/
def clampedProfile (f : ProfileSpec) (coding : Coding) (urgent : Bool) : Profile where
  maxMessages := clampTo 1 48 f.maxMessages
  quota := clampTo 60 7200 f.quota
  maxMessage := clampTo 10 600 f.maxMessage
  retainNew := clampTo 0 365 f.retainNew
  retainHeard := clampTo 0 365 f.retainHeard
  retainKept := clampTo 0 365 f.retainKept
  coding := coding
  urgentAllowed := urgent

/-- The assigned boxes of a class, ascending (R44). -/
def State.boxesOfClass (s : State) (c : BoxClass) : List Nat :=
  s.dir.boxes.select (fun x => x.state != .unassigned && x.cls == c)

/-- PROFILE SET (R44). -/
def State.answerProfileSet (s : State) (cls : Nat) (fields : ProfileSpec) : State × Reply :=
  answerTest s do
    let c ← orRefuse .range (boxClassOf cls)
    let coding ← orRefuse .range (codingOf fields.coding)
    let urgent ← orRefuse .range (flagOf fields.urgentAllowed)
    let p := clampedProfile fields coding urgent
    let t := s.onDir fun d => { d with profiles := d.profiles.set c p }
    return (t.recomputeAll (t.boxesOfClass c), p.fields)

/-- PROFILE SET (R44). -/
def execProfileSet (tag cls : Nat) (fields : ProfileSpec) (s : State) :
    Host.Outcome State Fault Refusal :=
  .next (s.request (.profileSet tag cls fields) fun s => s.answerProfileSet cls fields)

/-! ## Messages (R51 to R54) -/

/-- The sender field of LIST: the sender, or a BROADCAST entry's job number, or absent (R51;
assumption 19). -/
def Entry.senderFields (v : Entry) : List Field :=
  match v.source with
  | .broadcast => bOpt (fun j => [b1 j]) v.job
  | .caller | .recorded | .forwarded => bOpt bExt v.sender

/-- An entry as LIST gives it, at a position (R51). -/
def State.entryFields (s : State) (pos e : Nat) : List Field :=
  match s.entry e with
  | none => [b1 pos]
  | some v =>
    [b1 pos, b1 v.state.code, bf v.urgent, b1 v.source.code, b2 (secondsOf (s.framesOf v.recording))] ++
      bOpt bClock v.deposited ++ v.senderFields ++ [b2 v.recording]

/-- LIST; the counts behind the entries travel in 1 byte, as in BOX INFO (R51, R185; DEDUCED: assumption
19). -/
def State.answerList (s : State) (box : BoxRef) : State × Reply :=
  answerTest s do
    let b ← s.dir.resolve box
    let x := s.box b
    let items := x.messages.zipIdx.map (fun e => s.entryFields (e.2 + 1) e.1)
    return (s, bSeq items ++ [b1 x.messages.length, b1 x.newCount, b1 x.urgentNew])

/-- LIST (R51). -/
def execList (tag : Nat) (box : BoxRef) (s : State) : Host.Outcome State Fault Refusal :=
  .next (s.request (.list tag box) fun s => s.answerList box)

/-- MARK (R52). -/
def State.answerMark (s : State) (box : BoxRef) (pos state : Nat) : State × Reply :=
  answerTest s do
    let st ← orRefuse .range (msgStateOf state)
    let b ← s.dir.resolve box
    let e ← s.dir.entryAt b pos
    let t := s.markEntry e st
    return (t, [b1 (positionIn e (t.box b).messages)])

/-- MARK (R52). -/
def execMark (tag : Nat) (box : BoxRef) (position state : Nat) (s : State) :
    Host.Outcome State Fault Refusal :=
  .next (s.request (.mark tag box position state) fun s => s.answerMark box position state)

/-- DELETE; the list length and the new count travel in 1 byte, as in BOX INFO (R53, R185; DEDUCED:
assumption 19). -/
def State.answerDelete (s : State) (box : BoxRef) (pos : Nat) : State × Reply :=
  answerTest s do
    let b ← s.dir.resolve box
    let e ← s.dir.entryAt b pos
    let t := (s.removeEntry e).recompute b
    let x := t.box b
    return (t, [b1 x.messages.length, b1 x.newCount, b4 x.charged])

/-- DELETE (R53). -/
def execDelete (tag : Nat) (box : BoxRef) (position : Nat) (s : State) :
    Host.Outcome State Fault Refusal :=
  .next (s.request (.delete tag box position) fun s => s.answerDelete box position)

/-- The refusal that a failed creation brings to FORWARD (R48, R54). -/
def forwardFault : CreateFault → Reason
  | .duplicate => .duplicate
  | .refs => .refs
  | .entries => .full

/-- The quota test of FORWARD, without the floor of an admission (R54, R72). -/
def Directory.quotaTakes (d : Directory) (b frames : Nat) : Bool :=
  (d.box b).charged + (d.box b).reserved + frames ≤ (d.profile b).quota * 50

/-- FORWARD's entry is created and charged (R54, R72). -/
def State.forwardTo (s : State) (a b r : Nat) (urgent : Bool) : Test (State × List Field) :=
  match s.createEntry b r .forwarded urgent (some (s.box a).ext) none with
  | .error f => refuse (forwardFault f) 0
  | .ok (e, t) =>
    let frames := s.framesOf r
    let t := (t.onBox b fun x => { x with charged := x.charged + frames }).recompute b
    .ok (t, [b2 b, b1 (positionIn e (t.box b).messages), bf urgent, b2 (secondsOf frames)])

/-- FORWARD (R54). -/
def State.answerForward (s : State) (boxA : BoxRef) (pos : Nat) (boxB : BoxRef) (urgent : Nat) :
    State × Reply :=
  answerTest s do
    let u ← orRefuse .range (flagOf urgent)
    let a ← s.dir.resolve boxA
    let e ← s.dir.entryAt a pos
    let v ← orRefuse .noEntry (s.entry e)
    let b ← s.dir.resolve boxB
    let x := s.box b
    require (x.state != .suspended) .suspended 0
    require (decide (x.messages.length + x.pendingDeposits < (s.dir.profile b).maxMessages)) .full 0
    require (s.dir.quotaTakes b (s.framesOf v.recording)) .quota 0
    s.forwardTo a b v.recording (u && (s.dir.profile b).urgentAllowed)

/-- FORWARD (R54). -/
def execForward (tag : Nat) (boxA : BoxRef) (position : Nat) (boxB : BoxRef) (urgent : Nat)
    (s : State) : Host.Outcome State Fault Refusal :=
  .next (s.request (.forward tag boxA position boxB urgent)
    fun s => s.answerForward boxA position boxB urgent)

/-! ## Greetings, absence and trim (R55, R56, R68) -/

/-- GREETING CLEAR (R55). -/
def State.answerGreetingClear (s : State) (box : BoxRef) (slot : Nat) : State × Reply :=
  answerTest s do
    let b ← s.dir.resolve box
    let g ← orRefuse .range (greetingSlotOf slot)
    return (s.clearGreeting b g, [])

/-- GREETING CLEAR (R55). -/
def execGreetingClear (tag : Nat) (box : BoxRef) (slot : Nat) (s : State) :
    Host.Outcome State Fault Refusal :=
  .next (s.request (.greetingClear tag box slot) fun s => s.answerGreetingClear box slot)

/-- A box's absence set (R56). -/
def Box.setAbsence (x : Box) (flag : Bool) (untilDay : Option Nat) (noDeposit : Bool) : Box :=
  if flag then { x with absent := true, untilDay := untilDay, noDeposit := noDeposit }
  else x.clearAbsence

/-- The absence fields of a box (R56). -/
def Box.absenceFields (x : Box) : List Field :=
  bf x.absent :: bOpt (fun u => [b2 u]) x.untilDay ++ [bf x.noDeposit]

/-- ABSENCE SET (R56). -/
def State.answerAbsenceSet (s : State) (box : BoxRef) (flag : Nat) (untilDay : Option Nat)
    (noDeposit : Nat) : State × Reply :=
  answerTest s do
    let b ← s.dir.resolve box
    let f ← orRefuse .range (flagOf flag)
    let n ← orRefuse .range (flagOf noDeposit)
    let x := (s.box b).setAbsence f untilDay n
    return (s.setBox b x, x.absenceFields)

/-- ABSENCE SET (R56). -/
def execAbsenceSet (tag : Nat) (box : BoxRef) (flag : Nat) (untilDay : Option Nat)
    (noDeposit : Nat) (s : State) : Host.Outcome State Fault Refusal :=
  .next (s.request (.absenceSet tag box flag untilDay noDeposit)
    fun s => s.answerAbsenceSet box flag untilDay noDeposit)

/-- TRIM SET (R68). -/
def State.answerTrimSet (s : State) (guard cap : Nat) : State × Reply :=
  let g := clampTo 0 50 guard
  let c := clampTo 0 1000 cap
  (s.onSettings fun st => { st with trimGuard := g, trimCap := c }, .accepted [b1 g, b2 c])

/-- TRIM SET (R68). -/
def execTrimSet (tag guard cap : Nat) (s : State) : Host.Outcome State Fault Refusal :=
  .next (s.request (.trimSet tag guard cap) fun s => s.answerTrimSet guard cap)

end Sys2Proof.Machine
end

