-- ==== Sys2Proof/Machine/CallRequests.lean ====
section
/-! DEFINITION. ANSWER and RECORD (spec/05): greeting choice, admission, and the start of an
operation on a port. -/

namespace Sys2Proof.Machine

/-- A port number below 32 (R116). -/
def portInRange (p : Nat) : Test Unit := require (decide (p < Config.numPorts)) .range 0

/-- A port that is IDLE, or BUSY with the port's state as the detail (R79, R117, R118, R152). -/
def State.portIdle (s : State) (p : Nat) : Test Unit :=
  require ((s.port p).state == .idle) .busy (s.port p).state.code

/-- An extension of the right form where one is given (R79, R88). -/
def senderValid : Option (List Nat) → Test Unit
  | none => .ok ()
  | some e => require (extValid e) .range 0

/-! ## Greeting choice (R80, R81) -/

/-- The greeting chosen, and whether the no-deposit option applies (R80). -/
def State.chooseGreeting (s : State) (b : Nat) (busy : Bool) : GreetingChoice × Bool :=
  let x := s.box b
  if x.absent && !x.absencePassed s.day && x.absence.isSome then (.absence, x.noDeposit)
  else if busy && x.busy.isSome then (.busy, false)
  else if x.standard.isSome then (.standard, false)
  else (.default, false)

/-- The segment of a greeting slot, where it is filled. -/
def State.greetingSegment (s : State) (b : Nat) (g : GreetingSlot) : List Segment :=
  (((s.box b).greeting g).map fun r => s.segmentOf .greeting r 0).toList

/-- The segment of a prompt slot, left out where it is empty (R14, R80). -/
def State.filledPrompt (s : State) (n : Nat) : List Segment :=
  if (s.dir.prompts.find n).isSome then [s.promptSegment n] else []

/-- The play list of a greeting (R80, R81). -/
def State.greetingList (s : State) (b : Nat) : GreetingChoice → List Segment
  | .absence => s.greetingSegment b .absence
  | .busy => s.greetingSegment b .busy
  | .standard => s.greetingSegment b .standard
  | .default =>
    let named := s.greetingSegment b .name
    let spoken :=
      if named = [] then (s.box b).ext.flatMap fun d => s.filledPrompt (10 + (d - 0x30)) else named
    s.filledPrompt 1 ++ spoken ++ s.filledPrompt 2

/-- The prompt that follows the greeting of a deposit refused for a reason (R81). -/
def refusalPrompt : Reason → Nat
  | .suspended => 4
  | _ => 3

/-- What an ANSWER plays after its greeting: the tone where it will record, the refusal prompt where
it was not admitted, nothing where there is no deposit (R81, R83; assumption 16). -/
def State.afterGreeting (s : State) (refused : Option Reason) (noDeposit : Bool) : List Segment :=
  match refused, noDeposit with
  | _, true => []
  | none, false => [Segment.callTone]
  | some r, false => (s.filledPrompt (refusalPrompt r)).map fun g => { g with refusal := true }

/-- An operation starts on port `p` with its play list (R78, R79, R88). -/
def State.startOperation (s : State) (p : Nat) (o : OpRecord) (gs : List Segment) : State :=
  let s := (s.takeHolds gs).onPort p fun q =>
    { q with state := .playing, op := some o, underflowCount := 0 }
  (s.startLevel p (Level.of gs)).playOn p

/-! ## ANSWER (R79 to R82) -/

/-- The code of an admission in ANSWER's reply: ADMITTED, SUSPENDED, FULL, QUOTA, POOL numbered from 0
in the order in which R82 lists them, and not the codes that R179 gives the refusal reasons (DESIGN
CHOICE; assumption 42). -/
def admissionCode : Option Reason → Nat
  | none => 0
  | some .suspended => 1
  | some .full => 2
  | some .quota => 3
  | some _ => 4

/-- The operation record of an ANSWER (R77, R79). -/
def answerRecord (b limit : Nat) (refused : Option Reason) (choice : GreetingChoice)
    (noDeposit urgent : Bool) (caller : Option (List Nat)) (eos : Bool) : OpRecord where
  answer := true
  target := .box b
  phase := .greeting
  admitted := refused.isNone
  depositHeld := refused.isNone && !noDeposit
  limit := limit
  urgent := urgent
  sender := caller
  endOnSilence := eos
  greeting := some choice
  noDeposit := noDeposit
  recording := none
  endReason := none

/-- The books of an ANSWER's admission: the refusal counted, or the deposit reserved, and settled at
once where there is no deposit (R64, R65, R82). -/
def State.bookAnswer (s : State) (b limit : Nat) (refused : Option Reason) (noDeposit : Bool) : State :=
  match refused with
  | some _ => s.countRefusal b
  | none => if noDeposit then s.reserveAndSettle b limit else s.reserve b limit

/-- The fields of ANSWER's reply (R82). -/
def answerFields (o : OpRecord) (b : Nat) (refused : Option Reason) (choice : GreetingChoice) :
    List Field :=
  [b2 b, b1 (admissionCode refused), b1 choice.code, bf o.depositHeld] ++
    bOpt (fun l => [b2 (secondsOf l)]) (if o.depositHeld then some o.limit else none) ++ [bf o.urgent]

/-- ANSWER (R79 to R82). -/
def State.answerAnswer (s : State) (p : Nat) (ext : List Nat) (reason urgent : Nat)
    (caller : Option (List Nat)) (eos : Nat) : State × Reply :=
  answerTest s do
    portInRange p
    let busy ← orRefuse .range (answerBusyOf reason)
    let u ← orRefuse .range (flagOf urgent)
    let e ← orRefuse .range (flagOf eos)
    s.portIdle p
    let b ← s.dir.resolveExt ext
    senderValid caller
    let (choice, noDeposit) := s.chooseGreeting b busy
    let refused := s.dir.admission b
    let gs := s.greetingList b choice ++ s.afterGreeting refused noDeposit
    require (s.overflowing [] 1 gs).isNone .refs 0
    let limit := s.dir.admissionLimit b
    let o := answerRecord b limit refused choice noDeposit (u && (s.dir.profile b).urgentAllowed)
      caller e
    return ((s.bookAnswer b limit refused noDeposit).startOperation p o gs,
      answerFields o b refused choice)

/-- ANSWER (R79). -/
def execAnswer (tag port : Nat) (ext : List Nat) (reason urgent : Nat) (caller : Option (List Nat))
    (endOnSilence : Nat) (s : State) : Host.Outcome State Fault Refusal :=
  .next (s.request (.answer tag port ext reason urgent caller endOnSilence)
    fun s => s.answerAnswer port ext reason urgent caller endOnSilence)

/-! ## RECORD (R88, R89) -/

/-- A target's own numbers and codes, tested before anything else (R88 test 1). -/
def targetCodes : TargetSpec → Test Unit
  | .box _ urgent sender => do
    let _ ← orRefuse .range (flagOf urgent)
    senderValid sender
  | .greeting _ slot => do
    let _ ← orRefuse .range (greetingSlotOf slot)
    return ()
  | .prompt n => require (decide (n < Config.numPrompts)) .range 0
  | .list l urgent => do
    require (decide (l < Config.numLists)) .range 0
    let _ ← orRefuse .range (flagOf urgent)
    return ()
  | .unknown _ => refuse .range 0

/-- A target resolved: its purpose (R88 test 3). -/
def State.resolveTarget (s : State) : TargetSpec → Test Purpose
  | .box ext _ _ => do
    let b ← s.dir.resolveExt ext
    return .box b
  | .greeting box slot => do
    let b ← s.dir.resolve box
    let g ← orRefuse .range (greetingSlotOf slot)
    return .greeting b g
  | .prompt n => .ok (.prompt n)
  | .list l urgent => do
    require (s.members l).isSome .noList 0
    let u ← orRefuse .range (flagOf urgent)
    return .list l u
  | .unknown _ => refuse .range 0

/-- The urgent flag in force of a target (R88, R89). -/
def State.targetUrgent (s : State) : TargetSpec → Purpose → Option Bool
  | .box _ urgent _, .box b =>
    some ((flagOf urgent).getD false && (s.dir.profile b).urgentAllowed)
  | _, .list _ u => some u
  | _, _ => none

/-- The sender of a target: that of a BOX (R88, R89). -/
def targetSender : TargetSpec → Option (List Nat)
  | .box _ _ sender => sender
  | .greeting _ _ | .prompt _ | .list _ _ | .unknown _ => none

/-- Is a purpose a box deposit? -/
def Purpose.isDeposit : Purpose → Bool
  | .box _ => true
  | .greeting _ _ | .prompt _ | .list _ _ => false

/-- The operation record of a RECORD (R77, R88). -/
def recordRecord (goal : Purpose) (limit : Nat) (urgent : Bool) (sender : Option (List Nat))
    (eos : Bool) : OpRecord where
  answer := false
  target := goal
  phase := .tone
  admitted := goal.isDeposit
  depositHeld := goal.isDeposit
  limit := limit
  urgent := urgent
  sender := sender
  endOnSilence := eos
  greeting := none
  noDeposit := false
  recording := none
  endReason := none

/-- A RECORD that passed its tests starts with the tone (R88). The box index and the urgent flag of its
reply are optional fields, each with its presence byte (R185; DEDUCED: assumption 19). -/
def State.startRecord (s : State) (p : Nat) (goal : Purpose) (limit : Nat) (spec : TargetSpec)
    (eos : Bool) : State × List Field :=
  let urgent := s.targetUrgent spec goal
  let o := recordRecord goal limit (urgent.getD false) (targetSender spec) eos
  (s.startOperation p o [Segment.callTone],
    bOpt (fun b => [b2 b]) goal.box? ++ [b2 (secondsOf limit)] ++ bOpt (fun u => [bf u]) urgent)

/-- The tests of RECORD before its admission (R88 tests 1 to 4). The rule gives BUSY's detail no
meaning, so it is 0 (R179). -/
def State.recordTests (s : State) (p : Nat) (spec : TargetSpec) (eos : Nat) : Test (Purpose × Bool) := do
  portInRange p
  targetCodes spec
  let e ← orRefuse .range (flagOf eos)
  require ((s.port p).state == .idle) .busy 0
  let goal ← s.resolveTarget spec
  require (goal.isDeposit || s.dir.poolLevel != .critical) .pool 0
  return (goal, e)

/-- RECORD (R88, R89). -/
def State.answerRecord (s : State) (p : Nat) (spec : TargetSpec) (eos : Nat) : State × Reply :=
  match s.recordTests p spec eos with
  | .error (r, d) => (s, .refused r d)
  | .ok (.box b, e) =>
    match s.dir.admission b with
    | some r => (s.countRefusal b, .refused r 0)
    | none =>
      let limit := s.dir.admissionLimit b
      let done := (s.reserve b limit).startRecord p (.box b) limit spec e
      (done.1, .accepted done.2)
  | .ok (goal, e) =>
    let done := s.startRecord p goal goal.fixedLimit spec e
    (done.1, .accepted done.2)

/-- RECORD (R88). -/
def execRecord (tag port : Nat) (target : TargetSpec) (endOnSilence : Nat) (s : State) :
    Host.Outcome State Fault Refusal :=
  .next (s.request (.record tag port target endOnSilence)
    fun s => s.answerRecord port target endOnSilence)

end Sys2Proof.Machine
end

