-- ==== Sys2Proof/Machine/ClockRequests.lean ====
section
/-! DEFINITION. The commands of the Retention Unit (spec/07): CLOCK SET, CLOCK READ,
MINUTE_TIMER_EXPIRY and SWEEP_STEP. -/

namespace Sys2Proof.Machine

/-- The clock takes a day and a minute, and the minute timer restarts (R107). -/
def State.setClock (s : State) (c : Clock) : State :=
  s.onRetention fun t => { t with clock := some c, minuteStart := s.now }

/-- CLOCK SET (R107). -/
def State.answerClockSet (s : State) (day minute : Nat) : State × Reply :=
  let c : Clock := ⟨day % 65536, min minute 1439⟩
  let change := s.day != some c.day
  let t := s.setClock c
  (if change then t.dayChange else t, .accepted (bClock c ++ [bf change]))

/-- CLOCK SET (R107). -/
def execClockSet (tag day minute : Nat) (s : State) : Host.Outcome State Fault Refusal :=
  .next (s.request (.clockSet tag day minute) fun s => s.answerClockSet day minute)

/-- The seconds to the next minute, 0 to 59 (R113): 59 less the whole seconds since the minute began,
so 59 just after a restart of the timer and 58 at one second exactly. The rule gives the range and no
rounding (DESIGN CHOICE; assumption 3). -/
def State.secondsToMinute (s : State) : Nat := 59 - min 59 ((s.now - s.retention.minuteStart) / 1000)

/-- The fields of CLOCK READ. The clock travels as an optional field, absent while it is UNSET (R113, R185;
DEDUCED: assumption 19). -/
def State.clockFields (s : State) : List Field :=
  let t := s.retention
  bOpt bClock t.clock ++ bOpt (fun _ => [b1 s.secondsToMinute]) t.clock ++
    bf t.cursor.isSome :: bOpt (fun d => [b2 d]) t.sweepDay ++ bOpt (fun b => [b2 b]) t.cursor ++
    [b4 t.expired, bf t.rerun]

/-- CLOCK READ (R113). -/
def State.answerClockRead (s : State) : State × Reply := (s, .accepted s.clockFields)

/-- CLOCK READ (R113). -/
def execClockRead (tag : Nat) (s : State) : Host.Outcome State Fault Refusal :=
  .next (s.request (.clockRead tag) State.answerClockRead)

/-- MINUTE_TIMER_EXPIRY (R106). -/
def execMinuteTimerExpiry (s : State) : Host.Outcome State Fault Refusal := .next s.minuteExpires

/-- SWEEP_STEP: one step of the pass that runs, while the module is RUNNING (R109; assumption 22). -/
def execSweepStep (s : State) : Host.Outcome State Fault Refusal :=
  .next (if s.running then s.stepSweep else s)

end Sys2Proof.Machine
end

