-- ==== Sys2Proof/Machine/LampRequests.lean ====
section
/-! DEFINITION. The requests on lamps and the lamp line (spec/11, R172): LAMP MAP, LAMP UNMAP, LAMP
SOURCE, LAMP SET, LAMP REFRESH, LAMP STATUS in both forms, LINE SET, and SETTLE_TIMER_EXPIRY. -/

namespace Sys2Proof.Machine

/-- A shelf number of the lamp line, or RANGE (R158, R165, R166). -/
def shelfInRange (shelf : Nat) : Test Unit := require (isShelf shelf) .range 0

/-! ## LAMP MAP, LAMP UNMAP, LAMP SOURCE (R158, R159) -/

/-- LAMP MAP (R158). -/
def State.answerLampMap (s : State) (box : BoxRef) (shelf station : Nat) : State × Reply :=
  answerTest s do
    let b ← s.dir.resolve box
    require (isShelf shelf && decide (station < 256)) .range 0
    let holder := s.boxAt shelf station
    require (holder.all (· == b)) .exists_ (holder.getD 0)
    let t := if holder = some b then s else s.mapLamp b shelf station
    return (t, [b2 b, b1 shelf, b1 station, b1 (t.lamp b).wanted.code])

/-- LAMP MAP (R158). -/
def execLampMap (tag : Nat) (box : BoxRef) (shelf station : Nat) (s : State) :
    Host.Outcome State Fault Refusal :=
  .next (s.request (.lampMap tag box shelf station) fun s => s.answerLampMap box shelf station)

/-- LAMP UNMAP (R158). -/
def State.answerLampUnmap (s : State) (box : BoxRef) : State × Reply :=
  answerTest s do
    let b ← s.dir.resolve box
    return (s.unmapLamp b, [])

/-- LAMP UNMAP (R158). -/
def execLampUnmap (tag : Nat) (box : BoxRef) (s : State) : Host.Outcome State Fault Refusal :=
  .next (s.request (.lampUnmap tag box) fun s => s.answerLampUnmap box)

/-- LAMP SOURCE (R159). -/
def State.answerLampSource (s : State) (box : BoxRef) (source : Nat) : State × Reply :=
  answerTest s do
    let b ← s.dir.resolve box
    let src ← orRefuse .range (lampSourceOf source)
    let t := (s.onLamp b fun l => { l with source := src }).recompute b
    return (t, [b1 src.code, b1 (t.lamp b).wanted.code])

/-- LAMP SOURCE (R159). -/
def execLampSource (tag : Nat) (box : BoxRef) (source : Nat) (s : State) :
    Host.Outcome State Fault Refusal :=
  .next (s.request (.lampSource tag box source) fun s => s.answerLampSource box source)

/-! ## LAMP SET, LINE SET (R164, R172) -/

/-- The lamp settings with their numbers clamped and taken (R164). -/
def Settings.withLamps (st : Settings) (slowOn slowOff fastOn fastOff : Nat) (urgent : Bool)
    (settle : Nat) : Settings :=
  { st with
    slowOn := clampTo 1 40 slowOn
    slowOff := clampTo 1 40 slowOff
    fastOn := clampTo 1 40 fastOn
    fastOff := clampTo 1 40 fastOff
    fastForUrgent := urgent
    settle := clampTo 0 15 settle }

/-- The lamp settings as LAMP SET's reply gives them (R164). -/
def Settings.lampFields (st : Settings) : List Field :=
  [b1 st.slowOn, b1 st.slowOff, b1 st.fastOn, b1 st.fastOff, bf st.fastForUrgent, b1 st.settle]

/-- LAMP SET (R161, R164). -/
def State.answerLampSet (s : State) (slowOn slowOff fastOn fastOff urgent settle : Nat) :
    State × Reply :=
  answerTest s do
    let u ← orRefuse .range (flagOf urgent)
    let t := s.onSettings fun st => st.withLamps slowOn slowOff fastOn fastOff u settle
    return (if u = s.dir.settings.fastForUrgent then t else t.recomputeAll t.assignedBoxes,
      t.dir.settings.lampFields)

/-- LAMP SET (R164). -/
def execLampSet (tag slowOn slowOff fastOn fastOff fastForUrgent settle : Nat) (s : State) :
    Host.Outcome State Fault Refusal :=
  .next (s.request (.lampSet tag slowOn slowOff fastOn fastOff fastForUrgent settle)
    fun s => s.answerLampSet slowOn slowOff fastOn fastOff fastForUrgent settle)

/-- LINE SET (R172). -/
def State.answerLineSet (s : State) (limit : Nat) : State × Reply :=
  let n := clampTo 0 7 limit
  (s.onSettings fun st => { st with retryLimit := n }, .accepted [b1 n])

/-- LINE SET (R172). -/
def execLineSet (tag retryLimit : Nat) (s : State) : Host.Outcome State Fault Refusal :=
  .next (s.request (.lineSet tag retryLimit) fun s => s.answerLineSet retryLimit)

/-! ## LAMP REFRESH (R165) -/

/-- The mapped boxes, ascending. -/
def State.mappedBoxes (s : State) : List Nat := s.lamps.select (fun l => l.station.isSome)

/-- The mapped boxes that a scope names, ascending (R165). -/
def State.scopeBoxes (s : State) : RefreshScope → Test (List Nat)
  | .all => .ok s.mappedBoxes
  | .shelf n => do
    shelfInRange n
    return s.mappedTo n
  | .box box => do
    let b ← s.dir.resolve box
    return if (s.lamp b).station.isSome then [b] else []
  | .unknown _ => refuse .range 0

/-- Is a record already queued or in flight (R165)? -/
def State.lampUnderWay (s : State) (b : Nat) : Bool :=
  (s.lamp b).state == .queued || (s.lamp b).state == .inFlight

/-- LAMP REFRESH; no rule states an upper bound of its two counts, so they travel in 4 bytes (R165,
R185). -/
def State.answerLampRefresh (s : State) (scope : RefreshScope) : State × Reply :=
  answerTest s do
    let bs ← s.scopeBoxes scope
    let already := (bs.filter s.lampUnderWay).length
    return ((bs.foldl State.refreshLamp s).downNext, [b4 (bs.length - already), b4 already])

/-- LAMP REFRESH (R165). -/
def execLampRefresh (tag : Nat) (scope : RefreshScope) (s : State) :
    Host.Outcome State Fault Refusal :=
  .next (s.request (.lampRefresh tag scope) fun s => s.answerLampRefresh scope)

/-! ## LAMP STATUS (R166, R176) -/

/-- The lengths that both forms of LAMP STATUS give (R166). -/
def State.lineFieldsOf (s : State) : List Field := [b2 s.lampQueue.length, b1 s.line.orders.length]

/-- A field given while a condition holds. -/
def when (c : Bool) (n : Nat) : Option Nat := if c then some n else none

/-- The milliseconds left until a moment of the timebase (R166; assumption 3). -/
def State.timeLeft (s : State) (moment : Nat) : Nat := moment - s.now

/-- The fields of LAMP STATUS (box); the sent cadence and the retries are optional each (R166; DEDUCED:
assumption 19). -/
def State.lampFields (s : State) (b : Nat) : List Field :=
  let l := s.lamp b
  let flying := l.state == .inFlight
  bOpt (fun st => [b1 (Prod.fst st), b1 (Prod.snd st)]) l.station ++
    [b1 l.source.code, b1 l.wanted.code, b1 (confirmedCode l.confirmed), b1 l.state.code] ++
    bOpt (fun c => [b1 (Cadence.code c)]) (if flying then l.sent else none) ++
    bOpt (fun n => [b1 n]) (when flying l.retries) ++
    bOpt (fun f => [b1 (FailReason.code f)]) l.failReason ++
    bOpt (fun n => [b2 n]) (when (l.state == .queued) (positionIn b s.lampQueue)) ++
    bOpt (fun n => [b2 n]) (l.expiry.map s.timeLeft) ++ s.lineFieldsOf

/-- LAMP STATUS (box) (R166). -/
def State.answerLampStatusBox (s : State) (box : BoxRef) : State × Reply :=
  answerTest s do
    let b ← s.dir.resolve box
    return (s, s.lampFields b)

/-- LAMP STATUS (box) (R166). -/
def execLampStatusBox (tag : Nat) (box : BoxRef) (s : State) : Host.Outcome State Fault Refusal :=
  .next (s.request (.lampStatusBox tag box) fun s => s.answerLampStatusBox box)

/-- The number of mapped records of a shelf in a state (R166). -/
def State.shelfLamps (s : State) (shelf : Nat) (st : LampState) : Nat :=
  ((s.mappedTo shelf).filter (fun b => (s.lamp b).state == st)).length

/-- The order in flight in LAMP STATUS (shelf): number, cadence, resends and box (R176). -/
def Order.fields (o : Order) : List Field :=
  [b1 o.number, b1 o.cadence.code, b1 o.resends] ++ bOpt (fun b => [b2 b]) o.box

/-- The fields of LAMP STATUS (shelf): the order in flight is one optional field (DEDUCED: assumption 19);
the six counts of the shelf's stations, of which no rule states an upper bound, travel in 4 bytes (R166,
R176, R185). -/
def State.shelfFields (s : State) (n : Nat) : List Field :=
  let h := s.shelf n
  b1 (if h.up then 0 else 1) :: bOpt (fun t => [b2 t]) (h.pausedUntil.map s.timeLeft) ++
    b1 h.nextNumber :: bOpt (fun a => [b1 a]) h.lastAccepted ++
    b1 h.consecutive :: bOpt (fun t => [b2 t]) (h.probeAt.map s.timeLeft) ++
    bOpt Order.fields (s.line.orderOf n) ++
    [b2 h.orders, b2 h.retries, b2 h.failures, b2 h.strays, b4 (s.mappedTo n).length,
      b4 (s.shelfLamps n .settled), b4 (s.shelfLamps n .waiting), b4 (s.shelfLamps n .queued),
      b4 (s.shelfLamps n .inFlight), b4 (s.shelfLamps n .failed)] ++ s.lineFieldsOf

/-- LAMP STATUS (shelf) (R166). -/
def State.answerLampStatusShelf (s : State) (shelf : Nat) : State × Reply :=
  answerTest s do
    shelfInRange shelf
    return (s, s.shelfFields shelf)

/-- LAMP STATUS (shelf) (R166). -/
def execLampStatusShelf (tag shelf : Nat) (s : State) : Host.Outcome State Fault Refusal :=
  .next (s.request (.lampStatusShelf tag shelf) fun s => s.answerLampStatusShelf shelf)

/-! ## SETTLE_TIMER_EXPIRY (R161) -/

/-- SETTLE_TIMER_EXPIRY: the settle timer of a WAITING record runs out (R161). -/
def execSettleTimerExpiry (box : Nat) (s : State) : Host.Outcome State Fault Refusal :=
  .next (if (s.lamp box).state = .waiting then (s.settleExpires box).downNext else s)

end Sys2Proof.Machine
end

