-- ==== Sys2Proof/Machine/Start.lean ====
section
/-! DEFINITION. Starting (spec/01, 1.10; R37, R61, R76, R104, R114, R130, R167, R168, R182, R183):
power-on, warm restart, FORMAT, and the recovery they share. The four commands of this family stand
here: POWER_ON_COLD_START, WARM_RESTART_RECOVERY and FORMAT_RUN. -/

namespace Sys2Proof.Machine

/-! ## Start-up recovery (R16) -/

/-- Step 1: every box's reserved frames and pending deposits are 0 (R16, R61). -/
def Directory.clearReservations (d : Directory) : Directory :=
  let cleared (x : Box) : Box := { x with reserved := 0, pendingDeposits := 0 }
  let clear (t : Table Box) (b : Nat) : Table Box :=
    t.write Box.unassigned b (cleared (t.read Box.unassigned b))
  { d with boxes := d.boxes.keys.foldl clear d.boxes }

/-- Step 2: every OPEN or SEALING recording is freed, ascending (R16). -/
def State.freeIncomplete (s : State) : State :=
  (s.dir.recordings.select (fun v => v.state != .sealed)).foldl State.freeRecording s

/-- The entries, greeting slots and prompt slots that name recording `r` (R16). -/
def Directory.namesOf (d : Directory) (r : Nat) : Nat :=
  d.entries.count (fun e => e.recording == r) +
    (d.boxes.rows.map fun x =>
      [x.2.standard, x.2.busy, x.2.absence, x.2.name].count (some r)).sum +
    d.prompts.count (fun q => q == r)

/-- Step 3: references are recounted, and recordings left at 0 are freed, ascending (R16). -/
def State.recountReferences (s : State) : State :=
  let s := s.onDir fun d =>
    { d with recordings := ⟨d.recordings.rows.map fun v =>
        (v.1, { v.2 with references := d.namesOf v.1 })⟩ }
  (s.dir.recordings.select (fun v => v.references == 0)).foldl State.freeRecording s

/-- Step 4: every DRAINING block goes to the pool tail, ascending (R16). -/
def State.freeDraining (s : State) : State :=
  (s.dir.blocks.select (· == .draining)).foldl State.appendFree s

/-- The Directory's recovery, steps 1 to 4, on a STARTING module (R16). -/
def State.recoverDirectory (s : State) : State :=
  (((s.onDir Directory.clearReservations).freeIncomplete).recountReferences).freeDraining

/-- A lamp record as a start leaves it before it is queued (R167). -/
def State.startLamp (s : State) (b : Nat) : State :=
  s.onLamp b fun l =>
    { Lamp.unmapped with station := l.station, source := l.source, wanted := s.dir.wanted b l.source }

/-- Every lamp record is rebuilt, and the mapped ones are queued, ascending (R167). -/
def State.refreshAtStart (s : State) : State :=
  let s := (s.lamps.keys ++ s.assignedBoxes).foldl State.startLamp { s with lampQueue := [] }
  (s.lamps.select (fun l => l.station.isSome)).foldl State.joinQueue s

/-- The module becomes RUNNING: the pool level is set from the free count, STARTED is produced and
RESTARTED set (R16, R76, R182). -/
def State.becomeRunning (s : State) (cause : StartCause) : State :=
  let n := s.dir.pool.size
  let level := PoolLevel.fromCount n
  let s := { s with module := .running }.onDir fun d => { d with poolLevel := level }
  (s.raise .started [b1 cause.code, b4 n, b1 level.code]).onLink fun l =>
    { l with flags := { l.flags with restarted := true } }

/-- A pass owed across a start begins once STARTED has been sent (R114). -/
def State.startOwed (s : State) : State :=
  if s.retention.owed then (s.onRetention fun t => { t with owed := false }).startPass else s

/-! ## Power-on (R16, R183) -/

/-- The module as power finds it, before recovery: everything outside directory memory as at cold
start, and the directory memory initialised where it is lost (R16, R37, R130, R167, R168, R183). -/
def State.poweredOn (s : State) (kept : Bool) : State :=
  { s with
    module := .starting .cold
    now := 0
    dir := if kept then s.dir else Directory.initialised
    cache := Cache.cold
    ports := ⟨[]⟩
    transmit := []
    jobs := []
    retention := Retention.cold
    lamps := if kept then s.lamps else ⟨[]⟩
    lampQueue := []
    line := LampLine.cold
    link := Link.cold !kept }

/-- Power is applied: recovery runs, the module is RUNNING, and its lamps are refreshed (R16, R167).
`kept` says that the directory memory kept its contents (assumption 27). -/
def State.powerOn (s : State) (kept : Bool) : State :=
  let kept := kept && s.dir.signature
  (((s.poweredOn kept).recoverDirectory).becomeRunning .cold).refreshAtStart.downNext

/-! ## Warm restart (R17) -/

/-- The module as a warm restart clears it: cache and scheduler, ports, jobs, sweep, shelves and
orders (R17, R37, R104, R114, R130, R168). The clock, the link and the frame on the down line stay. The
rerun mark is cleared with the pass, whose owed pass stands for both (R114; DEDUCED: assumption 22). -/
def State.warmCleared (s : State) : State :=
  { s with
    cache := s.cache.emptied
    ports := ⟨[]⟩
    transmit := []
    jobs := []
    retention :=
      { s.retention with cursor := none, sweepDay := none, rerun := false, expired := 0 }
    lampQueue := []
    line := { LampLine.cold with sending := s.line.sending, receiver := s.line.receiver } }

/-- The CLOCK_UNSET flag is set where the clock is UNSET at a warm restart (R114, R182). -/
def State.flagClock (s : State) : State :=
  if s.retention.clock.isNone then
    s.onLink fun l => { l with flags := { l.flags with clockUnset := true } }
  else s

/-- The recovery of a warm restart (R17). -/
def State.warmRecovery (s : State) : State :=
  ((((s.warmCleared.recoverDirectory).becomeRunning .warm).flagClock).refreshAtStart.downNext).startOwed

/-! ## FORMAT (R18) -/

/-- The directory memory as FORMAT leaves it (R18, R61). -/
def Directory.formatted (d : Directory) : Directory :=
  let retired := d.blocks.rows.filter (fun b => b.2 == .retired)
  { Directory.initialised with
    pool := Pool.allBut (retired.map Prod.fst)
    blocks := ⟨retired⟩
    profiles := d.profiles
    settings := d.settings
    poolLevel := d.poolLevel }

/-- Every lamp is unmapped and returned to source NEW, its order's box link cut (R158, R167, R168). -/
def State.unmapAll (s : State) : State :=
  let cut (o : Order) : Order := { o with box := none }
  { s with lamps := ⟨[]⟩, lampQueue := [] }.onLine fun l => { l with orders := l.orders.map cut }

/-- FORMAT runs (R18). -/
def State.formatStore (s : State) : State :=
  let s := (s.onCache Cache.emptied).onDir Directory.formatted
  let s := s.unmapAll.onRetention
    fun t => { t with cursor := none, sweepDay := none, rerun := false, expired := 0 }
  (s.becomeRunning .format).startOwed

/-! ## The commands -/

/-- POWER_ON_COLD_START (R16). -/
def execPowerOnColdStart (directoryKept : Bool) (s : State) : Host.Outcome State Fault Refusal :=
  .next (s.powerOn directoryKept)

/-- WARM_RESTART_RECOVERY (R17): it runs in the STARTING that RESTART began, and ends it only once no
request waits any more, so that each is refused with STARTING and STARTED follows them (R182; DEDUCED:
assumption 22). -/
def execWarmRestartRecovery (s : State) : Host.Outcome State Fault Refusal :=
  .next (if s.module = .starting .warm ∧ s.link.receiveQueue = [] then s.warmRecovery else s)

/-- FORMAT_RUN (R18): it runs in the STARTING that FORMAT began (assumption 22). -/
def execFormatRun (s : State) : Host.Outcome State Fault Refusal :=
  .next (if s.module = .starting .format then s.formatStore else s)

end Sys2Proof.Machine
end

