-- ==== Sys2Proof/Machine/LinkRequests.lean ====
section
/-! DEFINITION. The commands of the Link Interface (spec/13): FRAME_BYTE_TIMEOUT, STATUS, RESTART,
FORMAT and NOTICE MASK. The events that let a frame be taken stand in Machine/Taking.lean. -/

namespace Sys2Proof.Machine

/-! ## Events -/

/-- FRAME_BYTE_TIMEOUT: more than 50 ms without a byte inside a frame (R177). -/
def execFrameByteTimeout (s : State) : Host.Outcome State Fault Refusal :=
  .next (s.onLink Link.byteTimeout)

/-! ## STATUS (R181) -/

/-- The fields of STATUS, in order (R181). The clock travels as an optional field, absent while it is UNSET
(R185; DEDUCED: assumption 19). -/
def State.statusFields (s : State) : List Field :=
  [bf s.running, b1 s.dir.poolLevel.code, b4 s.dir.pool.size, b4 s.dir.drainingCount,
    b4 s.dir.retiredCount] ++ bOpt bClock s.retention.clock ++
    [b1 s.jobs.length, b2 s.lampQueue.length, b1 s.line.orders.length,
      b2 s.cache.readErrors, b2 s.cache.writeErrors, b2 s.cache.flashTimeouts,
      b2 s.cache.droppedRequests, b2 s.link.framingErrors, b2 s.link.overruns,
      b2 s.link.lostNotices] ++ s.link.flags.fields

/-- STATUS: the fields as they stand; the flags shown are cleared (R181). -/
def State.answerStatus (s : State) : State × Reply :=
  (s.onLink fun l => { l with flags := StatusFlags.clear }, .accepted s.statusFields)

/-- STATUS (R181). -/
def execStatus (tag : Nat) (s : State) : Host.Outcome State Fault Refusal :=
  .next (s.request (.status tag) State.answerStatus)

/-! ## RESTART and FORMAT (R182, R18) -/

/-- RESTART's immediate effect: STARTING, the notices dropped; a pass is owed where one was running
or marked (R114, R182). -/
def State.answerRestart (s : State) : State × Reply :=
  let t := { s with module := .starting .warm }.onLink Link.dropNotices
  (t.onRetention fun x => { x with owed := x.cursor.isSome || x.rerun }, .accepted [])

/-- RESTART (R182). -/
def execRestart (tag : Nat) (s : State) : Host.Outcome State Fault Refusal :=
  .next (s.request (.restart tag) State.answerRestart)

/-- Is every port FREE or IDLE, and no job queued (R18)? -/
def State.canFormat (s : State) : Bool :=
  s.ports.rows.all (fun q => q.2.state == .free || q.2.state == .idle) && s.jobs.isEmpty

/-- FORMAT: BUSY, or STARTING from the reply on (R18, R182). -/
def State.answerFormat (s : State) : State × Reply :=
  answerTest s do
    require s.canFormat .busy 0
    let t := { s with module := .starting .format }
    return (t.onRetention fun x => { x with owed := false }, [])

/-- FORMAT (R18). -/
def execFormat (tag : Nat) (s : State) : Host.Outcome State Fault Refusal :=
  .next (s.request (.format tag) State.answerFormat)

/-! ## NOTICE MASK (R180) -/

/-- A mask with STARTED enabled (R180, R185). -/
def maskWithStarted (mask : Nat) : Nat := if mask / 128 % 2 = 1 then mask % 256 else mask % 256 + 128

/-- NOTICE MASK: the mask in force (R180). -/
def State.answerNoticeMask (s : State) (mask : Nat) : State × Reply :=
  let m := maskWithStarted mask
  (s.onLink fun l => { l with mask := m }, .accepted [b1 m])

/-- NOTICE MASK (R180). -/
def execNoticeMask (tag mask : Nat) (s : State) : Host.Outcome State Fault Refusal :=
  .next (s.request (.noticeMask tag mask) fun s => s.answerNoticeMask mask)

end Sys2Proof.Machine
end

