-- ==== Sys2Proof/Machine/ListRequests.lean ====
section
/-! DEFINITION. The commands on distribution lists (R57 to R60), on jobs (R95, R100, R102, R104) and
JOB_STEP (R96). -/

namespace Sys2Proof.Machine

/-! ## Distribution lists -/

/-- A list number below 256 of a DEFINED list, with its members (R58 to R60). -/
def State.definedList (s : State) (l : Nat) : Test (List Nat) := do
  require (decide (l < Config.numLists)) .range 0
  orRefuse .noList (s.members l)

/-- LIST CREATE (R57). -/
def State.answerListCreate (s : State) (l : Nat) : State × Reply :=
  answerTest s do
    require (decide (l < Config.numLists)) .range 0
    require (s.members l).isNone .exists_ 0
    return (s.setMembers l [], [])

/-- LIST CREATE (R57). -/
def execListCreate (tag list : Nat) (s : State) : Host.Outcome State Fault Refusal :=
  .next (s.request (.listCreate tag list) fun s => s.answerListCreate list)

/-- Does a queued job name list `l` (R57)? -/
def State.listInJob (s : State) (l : Nat) : Bool := s.jobs.any (fun j => j.list == some l)

/-- LIST INFO (R57). The rule gives its tests no order: the list number and the start are tested for
RANGE before an UNDEFINED list is refused with NO_LIST (DESIGN CHOICE; assumption 20). -/
def State.answerListInfo (s : State) (l start count : Nat) : State × Reply :=
  answerTest s do
    require (decide (l < Config.numLists ∧ 1 ≤ start)) .range 0
    let ms ← orRefuse .noList (s.members l)
    let shown := (ms.drop (start - 1)).take (clampTo 1 256 count)
    return (s, [b1 0, b2 ms.length, b4 s.dir.freePlaces, bf (s.listInJob l), b2 shown.length] ++
      shown.map b2)

/-- LIST INFO (R57). -/
def execListInfo (tag list start count : Nat) (s : State) : Host.Outcome State Fault Refusal :=
  .next (s.request (.listInfo tag list start count) fun s => s.answerListInfo list start count)

/-- The steps of LIST DELETE: the jobs that name the list end, its members leave, it is UNDEFINED
(R58). -/
def State.deleteList (s : State) (l : Nat) : State :=
  (s.endJobs (s.jobs.filter (fun j => j.list == some l)) .listGone).onDir fun d =>
    { d with lists := d.lists.drop l }

/-- LIST DELETE; the count of the jobs ended, which the queue of at most 8 bounds, travels in 1 byte (R58,
R93, R185; DEDUCED: assumption 19). -/
def State.answerListDelete (s : State) (l : Nat) : State × Reply :=
  answerTest s do
    let ms ← s.definedList l
    return (s.deleteList l,
      [b2 ms.length, b1 (s.jobs.filter (fun j => j.list == some l)).length])

/-- LIST DELETE (R58). -/
def execListDelete (tag list : Nat) (s : State) : Host.Outcome State Fault Refusal :=
  .next (s.request (.listDelete tag list) fun s => s.answerListDelete list)

/-- MEMBER ADD (R59). -/
def State.answerMemberAdd (s : State) (l : Nat) (box : BoxRef) : State × Reply :=
  answerTest s do
    let ms ← s.definedList l
    let b ← s.dir.resolve box
    require (!ms.contains b) .exists_ 0
    require (decide (ms.length < Config.maxMembers ∧ 0 < s.dir.freePlaces)) .full 0
    return (s.addMember l b, [b2 (ms.length + 1)])

/-- MEMBER ADD (R59). -/
def execMemberAdd (tag list : Nat) (box : BoxRef) (s : State) : Host.Outcome State Fault Refusal :=
  .next (s.request (.memberAdd tag list box) fun s => s.answerMemberAdd list box)

/-- MEMBER REMOVE (R60). -/
def State.answerMemberRemove (s : State) (l : Nat) (box : BoxRef) : State × Reply :=
  answerTest s do
    let ms ← s.definedList l
    let b ← s.dir.resolve box
    require (ms.contains b) .noBox 1
    return (s.removeMember l b, [b2 (ms.length - 1)])

/-- MEMBER REMOVE (R60). -/
def execMemberRemove (tag list : Nat) (box : BoxRef) (s : State) : Host.Outcome State Fault Refusal :=
  .next (s.request (.memberRemove tag list box) fun s => s.answerMemberRemove list box)

/-! ## Jobs -/

/-- A recording that a job may take: SEALED, its references below 16,383 (R95, R100). -/
def State.jobRoom (s : State) (r : Nat) : Test Unit := do
  require (!s.refsFull r) .refs 0
  require (!s.jobsFull) .full 0

/-- The reply to a job queued: its number and its place in the queue (R95, R100). -/
def State.queuedFields (s : State) : List Field := [b1 (freeJobNumber s.jobs), b1 (s.jobs.length + 1)]

/-- DELIVER (R95). -/
def State.answerDeliver (s : State) (r l urgent : Nat) : State × Reply :=
  answerTest s do
    require (decide (r < Config.numRecordings ∧ l < Config.numLists)) .range 0
    let u ← orRefuse .range (flagOf urgent)
    require (s.isSealed r) .noRecording 0
    require (s.members l).isSome .noList 0
    s.jobRoom r
    return (s.queueJob r (some l) u, s.queuedFields)

/-- DELIVER (R95). -/
def execDeliver (tag recording list urgent : Nat) (s : State) : Host.Outcome State Fault Refusal :=
  .next (s.request (.deliver tag recording list urgent) fun s => s.answerDeliver recording list urgent)

/-- RECALL (R100). -/
def State.answerRecall (s : State) (r : Nat) : State × Reply :=
  answerTest s do
    let r ← s.resolveRecording r
    s.jobRoom r
    return (s.queueJob r none false, s.queuedFields)

/-- RECALL (R100). -/
def execRecall (tag recording : Nat) (s : State) : Host.Outcome State Fault Refusal :=
  .next (s.request (.recall tag recording) fun s => s.answerRecall recording)

/-- JOB CANCEL (R102). -/
def State.answerJobCancel (s : State) (n : Nat) : State × Reply :=
  answerTest s do
    require (decide (n < 256)) .range 0
    match s.jobs.find? (fun j => j.number == n) with
    | none => refuse .noEntry 1
    | some j => return (s.endJob j .cancelled, [b1 n, b1 JobOutcome.cancelled.code])

/-- JOB CANCEL (R102). -/
def execJobCancel (tag job : Nat) (s : State) : Host.Outcome State Fault Refusal :=
  .next (s.request (.jobCancel tag job) fun s => s.answerJobCancel job)

/-- The cursor in JOB STATUS: absent for a waiting job; for a DELIVER the box and its position in the
list, END as an absent pair; for a RECALL the box (R104; assumption 19). -/
def State.cursorFields (s : State) (j : Job) : List Field :=
  match j.cursor, j.list with
  | .waiting, _ => [b1 0]
  | .finished, _ => [b1 1, b1 0]
  | .at b, some l => [b1 1, b1 1, b2 b, b2 (positionIn b ((s.members l).getD []))]
  | .at b, none => [b1 1, b2 b]

/-- A job as JOB STATUS gives it, at a position (R104). The three skip counts of a RECALL, which keeps
none (R93), are sent as 0, as R103 has them in JOB_DONE (DESIGN CHOICE; assumption 43). -/
def State.jobFields (s : State) (pos : Nat) (j : Job) : List Field :=
  [b1 j.number, b1 j.kindCode, b2 j.recording] ++ bOpt (fun l => [b1 l]) j.list ++
    bOpt (fun u => [bf u]) (j.list.map fun _ => j.urgent) ++
    [b1 pos, b2 j.count, b2 j.inactive, b2 j.full, b2 j.duplicate] ++ s.cursorFields j

/-- JOB STATUS (R104). -/
def State.answerJobStatus (s : State) : State × Reply :=
  (s, .accepted (b1 s.jobs.length :: (s.jobs.zipIdx.flatMap fun j => s.jobFields (j.2 + 1) j.1)))

/-- JOB STATUS (R104). -/
def execJobStatus (tag : Nat) (s : State) : Host.Outcome State Fault Refusal :=
  .next (s.request (.jobStatus tag) State.answerJobStatus)

/-- JOB_STEP: one step of the active job, while the module is RUNNING (R96, R100; assumption 22). -/
def execJobStep (s : State) : Host.Outcome State Fault Refusal :=
  .next (if s.running then s.stepJob else s)

end Sys2Proof.Machine
end

