-- ==== Sys2Proof/Machine/PortEvents.lean ====
section
/-! DEFINITION. The events at the ports and the flash array: FRAME_TIME, STOP_FADE_END,
CAPTURE_FRAME_STORE, DETECTOR_QUIET, DETECTOR_START_TIMEOUT, CAPTURE_LIMIT_REACHED (spec/08 to
spec/10), FILL_COMPLETION, WRITE_COMPLETION and FLASH_OPERATION_TIMEOUT (spec/02). -/

namespace Sys2Proof.Machine

/-- Does port `p` exist, with the module not in a warm restart's STARTING, in which no port acts
(assumption 22)? -/
def State.portActs (s : State) (p : Nat) : Bool := p < Config.numPorts && s.running

/-- FRAME_TIME: 20 ms pass, and each bound port sends and receives a frame (R115, R150). In the
STARTING of a warm restart the ports are being reset and only the time passes (assumption 22). -/
def execFrameTime (received : List (Nat × Frame)) (s : State) : Host.Outcome State Fault Refusal :=
  let t := { s with now := s.now + 20 }
  .next (if s.module = .starting .warm then { t with transmit := [] } else t.framesAll received)

/-- STOP_FADE_END: the eighth frame of a STOP fade has been sent (R124). -/
def execStopFadeEnd (port : Nat) (s : State) : Host.Outcome State Fault Refusal :=
  .next (if s.portActs port then s.fadeDue port else s)

/-- CAPTURE_FRAME_STORE: the head frame of a capture queue is stored (R6, R151). -/
def execCaptureFrameStore (port : Nat) (s : State) : Host.Outcome State Fault Refusal :=
  .next (if s.portActs port then (s.dueSteps port).storeHead port else s)

/-- DETECTOR_QUIET (R138). -/
def execDetectorQuiet (port : Nat) (s : State) : Host.Outcome State Fault Refusal :=
  .next (if s.portActs port then s.quietStep port else s)

/-- DETECTOR_START_TIMEOUT (R139). -/
def execDetectorStartTimeout (port : Nat) (s : State) : Host.Outcome State Fault Refusal :=
  .next (if s.portActs port then s.timeoutStep port else s)

/-- CAPTURE_LIMIT_REACHED (R67, R127). -/
def execCaptureLimitReached (port : Nat) (s : State) : Host.Outcome State Fault Refusal :=
  .next (if s.portActs port then s.limitStep port else s)

/-- The operation in flight, where a completion is that of it: not the late completion of an
abandoned operation, which is ignored, and of its kind and line (R31; assumption 21). -/
def State.flightOf (s : State) (write : Bool) (line : Nat) (ending : FlashEnd) : Option FlashOp :=
  s.cache.inFlight.filter (fun op => ending != .late && op.write == write && op.line == line)

/-- FILL_COMPLETION (R31, R32). -/
def execFillCompletion (line : Nat) (ending : FlashEnd) (s : State) :
    Host.Outcome State Fault Refusal :=
  .next (match s.flightOf false line ending with
    | some op => s.operationEnds op (ending == .succeeded) false
    | none => s)

/-- WRITE_COMPLETION (R31, R33, R34). -/
def execWriteCompletion (line : Nat) (ending : FlashEnd) (s : State) :
    Host.Outcome State Fault Refusal :=
  .next (match s.flightOf true line ending with
    | some op => s.operationEnds op (ending == .succeeded) false
    | none => s)

/-- FLASH_OPERATION_TIMEOUT: an operation 50 ms old is treated as failed (R31). -/
def execFlashOperationTimeout (s : State) : Host.Outcome State Fault Refusal :=
  .next (match s.cache.inFlight with
    | some op => s.operationEnds op false true
    | none => s)

end Sys2Proof.Machine
end

