-- ==== Sys2Proof/Machine/PortRequests.lean ====
section
/-! DEFINITION. The commands on ports (spec/08): BIND, UNBIND, PLAY, INTERJECT, STOP, RELEASE,
ABORT, PORT RESET and PORT STATUS. -/

namespace Sys2Proof.Machine

/-! ## Binding (R116, R117) -/

/-- The port bound to a slot (R115). -/
def State.portOnSlot (s : State) (slot : Nat) : Option Nat := s.ports.search (fun q => q.slot == some slot)

/-- A FREE port becomes IDLE on a slot: its detector in START and its queues empty (R116). What else
the detector holds, as its trailing run and last class, stays until the next capture or a reset of the
port (R135; assumption 41). -/
def Port.bound (q : Port) (slot : Nat) : Port :=
  { q with state := .idle, slot := some slot, detector := { q.detector with state := .start },
           playout := [], capture := [] }

/-- BIND (R116). -/
def State.answerBind (s : State) (p slot : Nat) : State × Reply :=
  answerTest s do
    require (decide (p < Config.numPorts ∧ slot < Config.numSlots)) .range 0
    let q := s.port p
    require (q.state == .free) .state (Config.bindStateDetail q.state.code (q.slot.getD 0))
    let other := s.portOnSlot slot
    require other.isNone .exists_ (other.getD 0)
    return (s.onPort p fun q => q.bound slot, [b1 p, b1 slot])

/-- BIND (R116). -/
def execBind (tag port slot : Nat) (s : State) : Host.Outcome State Fault Refusal :=
  .next (s.request (.bind tag port slot) fun s => s.answerBind port slot)

/-- UNBIND (R117). -/
def State.answerUnbind (s : State) (p : Nat) : State × Reply :=
  answerTest s do
    portInRange p
    s.portIdle p
    return (s.onPort p fun q => { q with state := .free, slot := none }, [])

/-- UNBIND (R117). -/
def execUnbind (tag port : Nat) (s : State) : Host.Outcome State Fault Refusal :=
  .next (s.request (.unbind tag port) fun s => s.answerUnbind port)

/-! ## PLAY and INTERJECT (R118, R122) -/

/-- Is a segment's kind one of the six (R118 test 1)? -/
def knownKind : SegmentSpec → Bool
  | .unknown _ => false
  | .message _ _ _ _ | .greeting _ _ | .prompt _ | .recording _ _ | .tone | .silence _ => true

/-- The tests of a play list that do not depend on the port's state (R118 test 1). -/
def playListValid (p : Nat) (gs : List SegmentSpec) : Test Unit :=
  require (decide (p < Config.numPorts ∧ 1 ≤ gs.length ∧ gs.length ≤ Config.maxSegments) &&
    gs.all knownKind) .range 0

/-- The holds of resolved segments counted; a refusal gives the first segment that overflows (R118
test 4), in INTERJECT, which counts them as PLAY does, too (R122; DEDUCED: assumption 57). -/
def State.countHolds (s : State) (vs : List Segment) : Test Unit :=
  match s.overflowing [] 1 vs with
  | some i => refuse .refs i
  | none => .ok ()

/-- A test to whose refusals the request's rule gives no detail: it is 0 (R179). -/
def withoutDetail {α : Type} : Test α → Test α
  | .ok a => .ok a
  | .error (r, _) => refuse r 0

/-- The reported seconds of segments, as a sequence (R118, R122). -/
def lengthFields (vs : List Segment) : List Field :=
  b1 vs.length :: vs.map (fun g => b2 (secondsOf g.length))

/-- The total length of a play list in seconds (R118). -/
def totalSeconds (vs : List Segment) : Nat := secondsOf (vs.map Segment.length).sum

/-- An IDLE port starts a play list (R118). -/
def State.startPlay (s : State) (p : Nat) (vs : List Segment) : State :=
  let s := (s.takeHolds vs).onPort p fun q => { q with state := .playing, op := none, underflowCount := 0 }
  (s.startLevel p (Level.of vs)).playOn p

/-- PLAY (R118). -/
def State.answerPlay (s : State) (p : Nat) (gs : List SegmentSpec) : State × Reply :=
  answerTest s do
    playListValid p gs
    s.portIdle p
    let vs ← s.resolveSegments 1 gs
    s.countHolds vs
    return (s.startPlay p vs, lengthFields vs ++ [b4 (totalSeconds vs)])

/-- PLAY (R118). -/
def execPlay (tag port : Nat) (segments : List SegmentSpec) (s : State) :
    Host.Outcome State Fault Refusal :=
  .next (s.request (.play tag port segments) fun s => s.answerPlay port segments)

/-- Does a port take an INTERJECT: PLAYING a plain list with no STOP fade under way (R122)? -/
def Port.interjectable (q : Port) : Bool :=
  q.state == .playing && q.op.isNone && q.stopFade.isNone && q.level.isSome

/-- A PLAYING port breaks into its level: the level is pushed with the holds it keeps, and the
interjection starts (R122). -/
def State.startInterjection (s : State) (p : Nat) (vs : List Segment) : State :=
  let s := (s.takeHolds vs).dropPin p
  let s := s.onPort p fun q => { q with stack := q.level.toList ++ q.stack }
  (s.startLevel p (Level.of vs)).playOn p

/-- INTERJECT. A segment that cannot be resolved refuses it with detail 0: the index is R118's, for PLAY
(R122, R179). -/
def State.answerInterject (s : State) (p : Nat) (gs : List SegmentSpec) : State × Reply :=
  answerTest s do
    playListValid p gs
    let q := s.port p
    require q.interjectable .state 0
    require (decide (q.stack.length < Config.maxStack)) .depth 0
    let vs ← withoutDetail (s.resolveSegments 1 gs)
    s.countHolds vs
    return (s.startInterjection p vs, b1 (q.stack.length + 1) :: lengthFields vs)

/-- INTERJECT (R122). -/
def execInterject (tag port : Nat) (segments : List SegmentSpec) (s : State) :
    Host.Outcome State Fault Refusal :=
  .next (s.request (.interject tag port segments) fun s => s.answerInterject port segments)

/-! ## STOP, RELEASE, ABORT (R124, R125, R85) -/

/-- A path test ends with its results (R152). -/
def State.endTest (s : State) (p : Nat) : State × List Field :=
  let q := s.port p
  match q.pathTest with
  | none => (s.onPort p Port.endTest, [])
  | some t => (s.onPort p Port.endTest, q.testResults t)

/-- STOP on a PLAYING port: the tone of an operation gives way to the open; otherwise a fade starts,
or ends where one is under way (R85, R124). -/
def State.stopPlaying (s : State) (p : Nat) (all : Bool) : State :=
  let q := s.port p
  match q.stopFade with
  | some x => s.endFade p (x.all || all)
  | none =>
    match q.op with
    | some o =>
      if o.phase = .tone then (s.openAtToneEnd p o).playOn p else s.onPort p fun q => q.startFade all
    | none => s.onPort p fun q => q.startFade all

/-- What STOP does by the port's state (R85, R124). -/
def State.stopPort (s : State) (p : Nat) (all : Bool) : State × List Field :=
  match (s.port p).state with
  | .free | .idle => (s, [b1 (s.port p).state.code])
  | .playing => (s.stopPlaying p all, [])
  | .recording => (s.endCapture p .stop, [])
  | .closing => (s, [])
  | .test => s.endTest p

/-- STOP (R124). -/
def State.answerStop (s : State) (p all : Nat) : State × Reply :=
  answerTest s do
    portInRange p
    let a ← orRefuse .range (flagOf all)
    return s.stopPort p a

/-- STOP (R124). -/
def execStop (tag port all : Nat) (s : State) : Host.Outcome State Fault Refusal :=
  .next (s.request (.stop tag port all) fun s => s.answerStop port all)

/-- What RELEASE does by the port's state (R85, R125). -/
def State.releasePort (s : State) (p : Nat) : State × List Field :=
  match (s.port p).state with
  | .free | .idle => (s, [b1 (s.port p).state.code])
  | .playing =>
    (if (s.port p).op.isSome then s.endOp p .hungUpEarly else s.endPlay p .stopped (some .hangup), [])
  | .recording => (s.endCapture p .hangup, [])
  | .closing => (s, [])
  | .test => s.endTest p

/-- RELEASE (R125). -/
def State.answerRelease (s : State) (p : Nat) : State × Reply :=
  answerTest s do
    portInRange p
    return s.releasePort p

/-- RELEASE (R125). -/
def execRelease (tag port : Nat) (s : State) : Host.Outcome State Fault Refusal :=
  .next (s.request (.release tag port) fun s => s.answerRelease port)

/-- What ABORT does by the port's state (R85, R125). -/
def State.abortPort (s : State) (p : Nat) : State × List Field :=
  match (s.port p).state with
  | .free | .idle => (s, [b1 (s.port p).state.code])
  | .playing =>
    (if (s.port p).op.isSome then s.endOp p .aborted else s.endPlay p .aborted none, [])
  | .recording => (s.abandonCapture p .aborted, [])
  | .closing => (s.markDiscard p, [])
  | .test => s.endTest p

/-- ABORT (R125). -/
def State.answerAbort (s : State) (p : Nat) : State × Reply :=
  answerTest s do
    portInRange p
    return s.abortPort p

/-- ABORT (R125). -/
def execAbort (tag port : Nat) (s : State) : Host.Outcome State Fault Refusal :=
  .next (s.request (.abort tag port) fun s => s.answerAbort port)

/-! ## PORT RESET and PORT STATUS (R126, R129) -/

/-- What a port was doing ends with outcome RESET (R126 steps 1 to 4). -/
def State.resetWork (s : State) (p : Nat) : State :=
  match (s.port p).state with
  | .free | .idle | .test => s
  | .playing => if (s.port p).op.isSome then s.endOp p .reset else s.endPlay p .reset none
  | .recording | .closing => s.abandonCapture p .reset

/-- A port in its clean condition, its binding kept (R126 steps 3 to 7). -/
def Port.clean (q : Port) : Port :=
  { q.rested with
    detector := Detector.initial
    underflowCount := 0
    counters := PortCounters.zero
    flags := PortFlags.clear }

/-- PORT RESET (R126). -/
def State.answerPortReset (s : State) (p : Nat) : State × Reply :=
  answerTest s do
    portInRange p
    let t := ((s.resetWork p).dropPin p).onPort p Port.clean
    return (t, [b1 (t.port p).state.code])

/-- PORT RESET (R126). -/
def execPortReset (tag port : Nat) (s : State) : Host.Outcome State Fault Refusal :=
  .next (s.request (.portReset tag port) fun s => s.answerPortReset port)

/-- The operation in PORT STATUS: ANSWER, RECORD (R77, R129). -/
def OpRecord.operationCode (o : OpRecord) : Nat := if o.answer then 0 else 1

/-- The fields of PORT STATUS, in the order of the table of R129. The trailing run, which R140 makes
readable there too and for which that table has no row, stands behind the detector's class (DESIGN CHOICE
for its place and width: assumption 52). -/
def State.portFields (s : State) (p : Nat) : List Field :=
  let q := s.port p
  let filling := q.op.bind OpRecord.recording
  b1 q.state.code :: bOpt (fun n => [b1 n]) q.slot ++
    bOpt (fun o => [b1 (OpRecord.operationCode o)]) q.op ++
    bOpt (fun o => [b1 (OpRecord.phase o).code]) q.op ++ b1 q.stack.length ::
    bOpt (fun l => [b1 (Level.index l), b4 (Level.position l)]) q.level ++
    bOpt (fun r => [b2 r, b4 (s.framesOf r)]) filling ++
    [b1 q.detector.state.code, b1 q.detector.lastClass, b4 q.detector.trailing, b1 q.playout.length,
      b1 (s.dir.settings.depth p), b1 q.capture.length] ++ q.counters.fields ++ q.flags.fields

/-- PORT STATUS: the port as it stands; its latched flags are cleared (R129). -/
def State.answerPortStatus (s : State) (p : Nat) : State × Reply :=
  answerTest s do
    portInRange p
    return (s.onPort p fun q => { q with flags := PortFlags.clear }, s.portFields p)

/-- PORT STATUS (R129). -/
def execPortStatus (tag port : Nat) (s : State) : Host.Outcome State Fault Refusal :=
  .next (s.request (.portStatus tag port) fun s => s.answerPortStatus port)

end Sys2Proof.Machine
end

