-- ==== Sys2Proof/Machine/ShelfEvents.lean ====
section
/-! DEFINITION. The events of the lamp line (spec/12): the down line's frames and timers, the shelves'
answers and their own frames, and the up-line receiver. -/

namespace Sys2Proof.Machine

/-! ## The down line and its timers (R169, R172, R173, R175) -/

/-- The acknowledgment timer starts for the order whose frame has been sent in full (R169). -/
def LampLine.startTimer (l : LampLine) : DownFrame → LampLine
  | .ack _ _ => l
  | .order shelf _ number _ _ _ =>
    l.onOrder shelf fun o => if o.number = number then { o with timerRunning := true } else o

/-- The frame on the down line has been sent: its timer starts, and the next frame is taken (R169). -/
def State.downFrameDone (s : State) : State :=
  match s.line.sending with
  | none => s
  | some f => (s.onLine fun l => { l.startTimer f with sending := none }).downNext

/-- DOWN_LINE_FRAME_DONE (R169). -/
def execDownLineFrameDone (s : State) : Host.Outcome State Fault Refusal := .next s.downFrameDone

/-- A probe goes unanswered: the slot is freed, and the box it names rejoins the queue (R173). -/
def State.probeFails (s : State) (shelf : Nat) (o : Order) : State :=
  let s := (s.onLine fun l => l.freeSlot shelf).onShelf shelf fun h =>
    { h with failures := sat16 h.failures }
  match o.box with
  | none => s
  | some b => s.joinQueue b

/-- An order is resent (R172). -/
def State.resendOrder (s : State) (shelf : Nat) (o : Order) : State :=
  let s := s.onLine fun l =>
    { l.onOrder shelf (fun o => { o with timerRunning := false, resends := o.resends + 1 }) with
      resends := l.resends ++ [shelf] }
  let s := s.onShelf shelf fun h => { h with retries := sat16 h.retries }
  match o.box with
  | none => s
  | some b => s.onLamp b fun l => { l with retries := l.retries + 1 }

/-- A shelf goes DOWN where three orders in a row have failed: its probe timer starts, and
SHELF_STATE is raised (R172, R173). -/
def State.shelfDown (s : State) (shelf : Nat) : State :=
  if 3 ≤ (s.shelf shelf).consecutive then
    (s.onShelf shelf fun h => { h with up := false, probeAt := some (s.now + 30000) }).raiseShelfState
      shelf 0
  else s

/-- An order's retries have run out (R172). -/
def State.orderFails (s : State) (shelf : Nat) (o : Order) : State :=
  let s := (s.onLine fun l => l.freeSlot shelf).onShelf shelf fun h =>
    { h with failures := sat16 h.failures, consecutive := min 3 (h.consecutive + 1) }
  let s :=
    match o.box with
    | none => s
    | some b => s.failLamp b shelf o.station .noAnswer (some o.cadence)
  s.shelfDown shelf

/-- The acknowledgment timer of a shelf's order expires (R172, R173). -/
def State.ackExpires (s : State) (shelf : Nat) : State :=
  match s.line.orderOf shelf with
  | none => s
  | some o =>
    if o.timerRunning = false then s
    else if o.probe then (s.probeFails shelf o).downNext
    else if o.resends < s.dir.settings.retryLimit then (s.resendOrder shelf o).downNext
    else (s.orderFails shelf o).downNext

/-- ACK_TIMER_EXPIRY (R172). -/
def execAckTimerExpiry (shelf : Nat) (s : State) : Host.Outcome State Fault Refusal :=
  .next (if isShelf shelf then s.ackExpires shelf else s)

/-- A DOWN shelf's probe timer expires and runs on; a probe falls due where the shelf is not paused
and has a box queued (R173). -/
def State.probeExpires (s : State) (shelf : Nat) : State :=
  if (s.shelf shelf).probeAt.isNone then s
  else
    let s := s.onShelf shelf fun h => { h with probeAt := some (s.now + 30000) }
    if (s.shelf shelf).pausedUntil.isNone && (s.oldestQueued shelf).isSome then
      (s.onLine fun l =>
        { l with probesDue := if shelf ∈ l.probesDue then l.probesDue else l.probesDue ++ [shelf] }).downNext
    else s

/-- PROBE_TIMER_EXPIRY (R173). -/
def execProbeTimerExpiry (shelf : Nat) (s : State) : Host.Outcome State Fault Refusal :=
  .next (if isShelf shelf then s.probeExpires shelf else s)

/-- A shelf's pause ends, and the queue is looked at again (R175). -/
def State.pauseEnds (s : State) (shelf : Nat) : State :=
  if (s.shelf shelf).pausedUntil.isNone then s
  else (s.onShelf shelf fun h => { h with pausedUntil := none }).downNext

/-- PAUSE_EXPIRY (R175). -/
def execPauseExpiry (shelf : Nat) (s : State) : Host.Outcome State Fault Refusal :=
  .next (if isShelf shelf then s.pauseEnds shelf else s)

/-! ## Answers to orders (R171, R173) -/

/-- The results of an acknowledgment (R171). -/
inductive AckResult where
  | done
  | noStation
  | lampFault
  deriving DecidableEq, Repr

/-- DONE reaches the record of box `b`: the sent cadence is confirmed, and where wanted is unlike it
the box joins the queue again (R171). -/
def State.lampDone (s : State) (b : Nat) : State :=
  let s := s.onLamp b fun l => { l with confirmed := l.sent, sent := none, state := .settled }
  if (s.lamp b).confirmed = some (s.lamp b).wanted then s else s.joinQueue b

/-- An answer reaches the record of the box that an order names (R171). -/
def State.answerLamp (s : State) (o : Order) (b : Nat) : AckResult → State
  | .done => s.lampDone b
  | .noStation => s.failLamp b o.shelf o.station .noStation (some o.cadence)
  | .lampFault => s.failLamp b o.shelf o.station .lampFault (some o.cadence)

/-- An answer with the number of the order in flight (R171, R173). -/
def State.ackMatched (s : State) (shelf : Nat) (o : Order) (r : AckResult) : State :=
  let s := (s.onLine fun l => l.freeSlot shelf).onShelf shelf fun h => { h with consecutive := 0 }
  let s := if o.probe then s.shelfUp shelf 1 else s
  let s :=
    match o.box with
    | none => s
    | some b => s.answerLamp o b r
  (if o.probe then s.requeueFailed shelf else s).downNext

/-- An acknowledgment from a shelf; one that matches no order in flight is a stray (R171). -/
def State.ackArrives (s : State) (shelf number : Nat) (r : AckResult) : State :=
  match s.line.orderOf shelf with
  | none => s.onShelf shelf fun h => { h with strays := sat16 h.strays }
  | some o =>
    if o.number = number then s.ackMatched shelf o r
    else s.onShelf shelf fun h => { h with strays := sat16 h.strays }

/-- ACK_DONE (R171). -/
def execAckDone (shelf number : Nat) (s : State) : Host.Outcome State Fault Refusal :=
  .next (if isShelf shelf then s.ackArrives shelf number .done else s)

/-- ACK_NO_STATION (R171). -/
def execAckNoStation (shelf number : Nat) (s : State) : Host.Outcome State Fault Refusal :=
  .next (if isShelf shelf then s.ackArrives shelf number .noStation else s)

/-- ACK_LAMP_FAULT (R171). -/
def execAckLampFault (shelf number : Nat) (s : State) : Host.Outcome State Fault Refusal :=
  .next (if isShelf shelf then s.ackArrives shelf number .lampFault else s)

/-! ## The shelves' own frames (R174, R175) -/

/-- An acknowledgment of a shelf frame joins the acknowledgment queue, or replaces the number of the
shelf's entry in place (R169). -/
def LampLine.queueAck (l : LampLine) (shelf number : Nat) : LampLine :=
  if l.ackQueue.any (fun a => a.1 == shelf) then
    { l with ackQueue := l.ackQueue.map (fun a => if a.1 = shelf then (shelf, number) else a) }
  else { l with ackQueue := l.ackQueue ++ [(shelf, number)] }

/-- A mapped record of a shelf that has restarted (R174 step 5). -/
def State.restartLamp (s : State) (b : Nat) : State :=
  let s := s.onLamp b fun l => { l with confirmed := none }
  if (s.lamp b).state = .queued then s else s.joinQueue b

/-- The steps of RESTART (R174). -/
def State.shelfRestarts (s : State) (shelf number : Nat) : State :=
  let up := (s.shelf shelf).up
  let s := s.onShelf shelf fun h =>
    { h with lastAccepted := some number, pausedUntil := none, consecutive := 0 }
  let s := if up then s else s.shelfUp shelf 2
  let s := s.onLine fun l => l.freeSlot shelf
  (s.mappedTo shelf).foldl State.restartLamp s

/-- RESTART from a shelf (R174). -/
def State.restartArrives (s : State) (shelf number : Nat) : State :=
  ((s.onLine fun l => l.queueAck shelf number).shelfRestarts shelf number).downNext

/-- Does a shelf's frame repeat the number last accepted (R174)? -/
def State.duplicateOf (s : State) (shelf number : Nat) : Bool :=
  (s.shelf shelf).lastAccepted == some number

/-- PAUSE from a shelf (R175). -/
def State.pauseArrives (s : State) (shelf number time : Nat) : State :=
  let t := s.onLine fun l => l.queueAck shelf number
  if s.duplicateOf shelf number then t.downNext
  else
    (t.onShelf shelf fun h =>
      { h with lastAccepted := some number,
               pausedUntil := if time = 0 then none else some (s.now + time * 100) }).downNext

/-- The record of a station that its shelf declares faulty (R175). -/
def State.stationFails (s : State) (shelf station : Nat) : State :=
  match s.boxAt shelf station with
  | none => s
  | some b => (s.detachLamp b).failLamp b shelf station .lampFault none

/-- STATION_FAULT from a shelf (R175). -/
def State.faultArrives (s : State) (shelf number station : Nat) : State :=
  let t := s.onLine fun l => l.queueAck shelf number
  if s.duplicateOf shelf number then t.downNext
  else
    ((t.onShelf shelf fun h => { h with lastAccepted := some number }).stationFails shelf
      station).downNext

/-- SHELF_RESTART (R174). -/
def execShelfRestart (shelf number : Nat) (s : State) : Host.Outcome State Fault Refusal :=
  .next (if isShelf shelf then s.restartArrives shelf number else s)

/-- SHELF_PAUSE (R175). -/
def execShelfPause (shelf number time : Nat) (s : State) : Host.Outcome State Fault Refusal :=
  .next (if isShelf shelf then s.pauseArrives shelf number time else s)

/-- STATION_FAULT (R175). -/
def execStationFault (shelf number station : Nat) (s : State) : Host.Outcome State Fault Refusal :=
  .next (if isShelf shelf then s.faultArrives shelf number station else s)

/-! ## The up-line receiver (R174, R184) -/

/-- The nine bytes after the sync: is their check the sum of the first seven, and the shelf one of the
line (R174, R184)? -/
def upFrameGood (bs : List Byte) : Bool :=
  bs.drop 7 == leBytes 2 (byteSum (bs.take 7)) && isShelf (bs.getD 0 0).toNat

/-- A good up-line frame acts by its kind; a kind that is none of the six is discarded (R174, R184). Its
frame number is the whole byte, above 7 too (DESIGN CHOICE: assumption 58). -/
def State.upFrame (s : State) (bs : List Byte) : State :=
  let shelf := (bs.getD 0 0).toNat
  let number := (bs.getD 2 0).toNat
  match (bs.getD 1 0).toNat with
  | 0x11 => s.ackArrives shelf number .done
  | 0x12 => s.ackArrives shelf number .noStation
  | 0x13 => s.ackArrives shelf number .lampFault
  | 0x21 => s.restartArrives shelf number
  | 0x22 => s.pauseArrives shelf number (bs.getD 5 0).toNat
  | 0x23 => s.faultArrives shelf number (bs.getD 3 0).toNat
  | _ => s

/-- The up-line receiver takes one byte (R174). -/
def State.upByte (s : State) (b : Byte) : State :=
  match s.line.receiver with
  | .hunting => if b = byteOf 0x5A then s.onLine fun l => { l with receiver := .collecting [] } else s
  | .collecting bs =>
    let bs := bs ++ [b]
    if bs.length < 9 then s.onLine fun l => { l with receiver := .collecting bs }
    else
      let s := s.onLine fun l => { l with receiver := .hunting }
      if upFrameGood bs then s.upFrame bs else s

/-- UP_LINE_BAD_FRAME: the receiver takes the bytes, and discards a frame with a bad sum, kind or
shelf (R174; assumption 36). -/
def execUpLineBadFrame (bytes : List Byte) (s : State) : Host.Outcome State Fault Refusal :=
  .next (bytes.foldl State.upByte s)

/-- UP_LINE_BYTE_TIMEOUT: more than 10 ms between two bytes of a frame (R174). -/
def execUpLineByteTimeout (s : State) : Host.Outcome State Fault Refusal :=
  .next (s.onLine fun l => { l with receiver := .hunting })

end Sys2Proof.Machine
end

