-- ==== Sys2Proof/Machine/StoreRequests.lean ====
section
/-! DEFINITION. The commands on the store: BLOCK QUERY (R15), CACHE QUERY (R36), RECORDING INFO
(R142) and PROMPT CLEAR (R14). -/

namespace Sys2Proof.Machine

/-- The next link of BLOCK QUERY: absent unless CHAINED, and END as an absent number (R15;
assumption 19). -/
def nextFields : Option BlockStatus → List Field
  | some (.chained _ n) => b1 1 :: bOpt (fun b => [b4 b]) n
  | _ => [b1 0]

/-- The fields of BLOCK QUERY (R15). -/
def State.blockFields (s : State) (b : Nat) : List Field :=
  b1 (blockStatusCode (s.dir.block b)) :: bOpt (fun r => [b2 r]) (s.dir.ownerOf b) ++
    nextFields (s.dir.block b) ++ bOpt (fun n => [b2 n]) (s.cache.lineOf b)

/-- BLOCK QUERY (R15). -/
def State.answerBlockQuery (s : State) (b : Nat) : State × Reply :=
  answerTest s do
    require (decide (b < Config.numBlocks)) .range 0
    return (s, s.blockFields b)

/-- BLOCK QUERY (R15). -/
def execBlockQuery (tag block : Nat) (s : State) : Host.Outcome State Fault Refusal :=
  .next (s.request (.blockQuery tag block) fun s => s.answerBlockQuery block)

/-- The fields of CACHE QUERY (R36). -/
def State.lineFields (s : State) (n : Nat) : List Field :=
  let l := s.cache.line n
  b1 l.state.code :: bOpt (fun b => [b4 b]) l.tag ++
    [b1 (s.cache.pinCount n), bf l.drop, b1 (s.cache.queuedCode n)] ++
    bOpt (fun r => [b2 r]) (l.tag.bind s.dir.ownerOf)

/-- CACHE QUERY (R36). -/
def State.answerCacheQuery (s : State) (n : Nat) : State × Reply :=
  answerTest s do
    require (decide (n < Config.numLines)) .range 0
    return (s, s.lineFields n)

/-- CACHE QUERY (R36). -/
def execCacheQuery (tag line : Nat) (s : State) : Host.Outcome State Fault Refusal :=
  .next (s.request (.cacheQuery tag line) fun s => s.answerCacheQuery line)

/-- The fields of RECORDING INFO. The limit, which R65 and R67 keep within 250 and 30,000 frames, travels in
2 bytes; the frames and the trimmed frames, whose upper bounds are other quantities, in 4 (R142, R185). -/
def Recording.fields (v : Recording) : List Field :=
  [b1 v.coding.code, b4 v.frames, b2 (secondsOf v.frames), b4 v.blocks, b4 v.head, b4 v.tail,
    b2 v.references, b2 v.limit, b4 v.trimmed, b1 v.peakClass] ++ bOpt bClock v.created ++
    bOpt bExt v.origin ++ [bf v.cut]

/-- RECORDING INFO (R142). -/
def State.answerRecordingInfo (s : State) (r : Nat) : State × Reply :=
  answerTest s do
    let r ← s.resolveRecording r
    let v ← orRefuse .noRecording (s.recording r)
    return (s, v.fields)

/-- RECORDING INFO (R142). -/
def execRecordingInfo (tag id : Nat) (s : State) : Host.Outcome State Fault Refusal :=
  .next (s.request (.recordingInfo tag id) fun s => s.answerRecordingInfo id)

/-- PROMPT CLEAR (R14). -/
def State.answerPromptClear (s : State) (n : Nat) : State × Reply :=
  answerTest s do
    require (decide (n < Config.numPrompts)) .range 0
    return (s.clearPrompt n, [])

/-- PROMPT CLEAR (R14). -/
def execPromptClear (tag slot : Nat) (s : State) : Host.Outcome State Fault Refusal :=
  .next (s.request (.promptClear tag slot) fun s => s.answerPromptClear slot)

end Sys2Proof.Machine
end

