-- ==== Sys2Proof/Machine/VoiceRequests.lean ====
section
/-! DEFINITION. The commands on queues, path tests and voice settings (spec/09, spec/10): PLAYOUT
SET, TEST, TEST INSERT, LEVEL SET, DETECTOR SET, RAMP SET and VOICE SETTINGS READ. -/

namespace Sys2Proof.Machine

/-! ## PLAYOUT SET (R147) -/

/-- The depth in force for a depth given (R147). -/
def depthFor (d : Nat) : Nat := if d ≤ 8 then 8 else if d ≤ 16 then 16 else if d ≤ 32 then 32 else 64

/-- PLAYOUT SET (R147). -/
def State.answerPlayoutSet (s : State) (p depth : Nat) : State × Reply :=
  answerTest s do
    portInRange p
    let d := depthFor depth
    return (s.onSettings fun st => { st with depths := st.depths.write 16 p d }, [b1 d])

/-- PLAYOUT SET (R147). -/
def execPlayoutSet (tag port depth : Nat) (s : State) : Host.Outcome State Fault Refusal :=
  .next (s.request (.playoutSet tag port depth) fun s => s.answerPlayoutSet port depth)

/-! ## TEST and TEST INSERT (R152, R155) -/

/-- The checker's counters cleared where the request says so (R152). -/
def PortCounters.forTest (c : PortCounters) (clear : Bool) : PortCounters :=
  if clear then { c with bits := 0, errors := 0, syncLosses := 0 } else c

/-- A port enters a path test (R152). -/
def Port.enterTest (q : Port) (t : PathTest) (clear : Bool) : Port :=
  { q with state := .test, playout := [], capture := [], pathTest := some t,
           counters := q.counters.forTest clear }

/-- TEST (R152). An ECHO replies its clamped generator fields too (DESIGN CHOICE: assumption 53). -/
def State.answerTestStart (s : State) (p mode n y seed clear : Nat) : State × Reply :=
  answerTest s do
    portInRange p
    let m ← orRefuse .range (testModeOf mode)
    let c ← orRefuse .range (flagOf clear)
    s.portIdle p
    let n := clampTo 3 23 n
    let y := clampTo 1 (n - 1) y
    let seed := seedFor n seed
    return (s.onPort p fun q => q.enterTest (PathTest.start m n y seed) c,
      [b1 m.code, b1 n, b4 y, b4 seed])

/-- TEST (R152). -/
def execTest (tag port mode n y seed clearCounts : Nat) (s : State) :
    Host.Outcome State Fault Refusal :=
  .next (s.request (.test tag port mode n y seed clearCounts)
    fun s => s.answerTestStart port mode n y seed clearCounts)

/-- An insertion's own numbers and codes (R155). -/
def insertionValid : InsertSpec → Test Unit
  | .off => .ok ()
  | .single => .ok ()
  | .rate k => require (decide (1 ≤ k)) .range 0
  | .unknown _ => refuse .range 0

/-- A pattern test under an insertion (R155). -/
def PathTest.insert (t : PathTest) : InsertSpec → PathTest
  | .off => { t with rate := none, rateCount := 0 }
  | .single => { t with single := true }
  | .rate k => { t with rate := some (min k 7), rateCount := 0 }
  | .unknown _ => t

/-- The insertion in force: the RATE, or a SINGLE not yet made, or OFF (R155; assumption 19). -/
def PathTest.insertFields (t : PathTest) : List Field :=
  match t.rate with
  | some k => [b1 2, b1 k]
  | none => if t.single then [b1 1] else [b1 0]

/-- The pattern test of a port, where it runs one (R155). -/
def Port.patternTest (q : Port) : Option PathTest :=
  if q.state = .test then q.pathTest.filter (fun t => t.mode != .echo) else none

/-- TEST INSERT (R155). -/
def State.answerTestInsert (s : State) (p : Nat) (x : InsertSpec) : State × Reply :=
  answerTest s do
    portInRange p
    insertionValid x
    let t ← orRefuse .state (s.port p).patternTest
    let u := t.insert x
    return (s.onPort p fun q => { q with pathTest := some u }, u.insertFields)

/-- TEST INSERT (R155). -/
def execTestInsert (tag port : Nat) (insertion : InsertSpec) (s : State) :
    Host.Outcome State Fault Refusal :=
  .next (s.request (.testInsert tag port insertion) fun s => s.answerTestInsert port insertion)

/-! ## Voice settings (R134, R141, R146) -/

/-- The first entry, from 1, that is below the entry before it (R134). -/
def firstFall : (index : Nat) → List Nat → Option Nat
  | i, a :: b :: rest => if b < a then some (i + 1) else firstFall (i + 1) (b :: rest)
  | _, _ => none

/-- LEVEL SET (R134). -/
def State.answerLevelSet (s : State) (thresholds : List Nat) : State × Reply :=
  answerTest s do
    let ts := thresholds.map (min 4095)
    match firstFall 1 ts with
    | some i => refuse .range i
    | none => return (s.onSettings fun st => { st with thresholds := ts }, ts.map b2)

/-- LEVEL SET (R134). -/
def execLevelSet (tag : Nat) (thresholds : List Nat) (s : State) : Host.Outcome State Fault Refusal :=
  .next (s.request (.levelSet tag thresholds) fun s => s.answerLevelSet thresholds)

/-- The detector settings as replies give them (R141). -/
def Settings.detectorFields (st : Settings) : List Field :=
  [b1 st.speechClass, b1 st.speechCount, b2 st.quietLength, b2 st.startTimeout]

/-- The settings with the four detector settings clamped and taken (R141). -/
def Settings.withDetector (st : Settings) (cls count quiet timeout : Nat) : Settings :=
  { st with
    speechClass := clampTo 1 15 cls
    speechCount := clampTo 1 10 count
    quietLength := clampTo 25 500 quiet
    startTimeout := clampTo 50 1000 timeout }

/-- DETECTOR SET (R141). -/
def State.answerDetectorSet (s : State) (cls count quiet timeout : Nat) : State × Reply :=
  let t := s.onSettings fun st => st.withDetector cls count quiet timeout
  (t, .accepted t.dir.settings.detectorFields)

/-- DETECTOR SET (R141). -/
def execDetectorSet (tag speechClass speechCount quietLength startTimeout : Nat) (s : State) :
    Host.Outcome State Fault Refusal :=
  .next (s.request (.detectorSet tag speechClass speechCount quietLength startTimeout)
    fun s => s.answerDetectorSet speechClass speechCount quietLength startTimeout)

/-- RAMP SET (R146). -/
def State.answerRampSet (s : State) (fadeIn fadeOut : List Nat) : State × Reply :=
  let a := fadeIn.map (min 256)
  let b := fadeOut.map (min 256)
  (s.onSettings fun st => { st with fadeIn := a, fadeOut := b }, .accepted (a.map b2 ++ b.map b2))

/-- RAMP SET (R146). -/
def execRampSet (tag : Nat) (fadeIn fadeOut : List Nat) (s : State) :
    Host.Outcome State Fault Refusal :=
  .next (s.request (.rampSet tag fadeIn fadeOut) fun s => s.answerRampSet fadeIn fadeOut)

/-- The fields of VOICE SETTINGS READ (R146). -/
def Settings.voiceFields (st : Settings) : List Field :=
  st.thresholds.map b2 ++ st.detectorFields ++ st.fadeIn.map b2 ++ st.fadeOut.map b2

/-- VOICE SETTINGS READ (R146). -/
def State.answerVoiceSettings (s : State) : State × Reply := (s, .accepted s.dir.settings.voiceFields)

/-- VOICE SETTINGS READ (R146). -/
def execVoiceSettingsRead (tag : Nat) (s : State) : Host.Outcome State Fault Refusal :=
  .next (s.request (.voiceSettingsRead tag) State.answerVoiceSettings)

end Sys2Proof.Machine
end

