-- ==== Sys2Proof/Machine/Taking.lean ====
section
/-! DEFINITION. The Link Interface takes the frame at the head of the receive queue (R178), and the
events that let it: a byte that completes a frame, a request of unknown kind, and the end of a sent
frame. -/

namespace Sys2Proof.Machine

/-- What a request does and answers, by its kind; an event is no request, and no frame reads as one
(R178 test 4). -/
def State.answerTo (s : State) : Instr → State × Reply
  | .status _ => s.answerStatus
  | .restart _ => s.answerRestart
  | .format _ => s.answerFormat
  | .noticeMask _ mask => s.answerNoticeMask mask
  | .blockQuery _ block => s.answerBlockQuery block
  | .cacheQuery _ line => s.answerCacheQuery line
  | .recordingInfo _ id => s.answerRecordingInfo id
  | .promptClear _ slot => s.answerPromptClear slot
  | .boxAssign _ ext cls state => s.answerBoxAssign ext cls state
  | .boxSet _ box cls state ext => s.answerBoxSet box cls state ext
  | .boxClear _ box => s.answerBoxClear box
  | .boxInfo _ box clear => s.answerBoxInfo box clear
  | .profileRead _ cls => s.answerProfileRead cls
  | .profileSet _ cls fields => s.answerProfileSet cls fields
  | .list _ box => s.answerList box
  | .mark _ box position state => s.answerMark box position state
  | .delete _ box position => s.answerDelete box position
  | .forward _ boxA position boxB urgent => s.answerForward boxA position boxB urgent
  | .greetingClear _ box slot => s.answerGreetingClear box slot
  | .absenceSet _ box flag untilDay noDeposit => s.answerAbsenceSet box flag untilDay noDeposit
  | .trimSet _ guard cap => s.answerTrimSet guard cap
  | .listCreate _ list => s.answerListCreate list
  | .listInfo _ list start count => s.answerListInfo list start count
  | .listDelete _ list => s.answerListDelete list
  | .memberAdd _ list box => s.answerMemberAdd list box
  | .memberRemove _ list box => s.answerMemberRemove list box
  | .deliver _ recording list urgent => s.answerDeliver recording list urgent
  | .recall _ recording => s.answerRecall recording
  | .jobCancel _ job => s.answerJobCancel job
  | .jobStatus _ => s.answerJobStatus
  | .clockSet _ day minute => s.answerClockSet day minute
  | .clockRead _ => s.answerClockRead
  | .answer _ port ext reason urgent caller endOnSilence => s.answerAnswer port ext reason urgent caller endOnSilence
  | .record _ port target endOnSilence => s.answerRecord port target endOnSilence
  | .bind _ port slot => s.answerBind port slot
  | .unbind _ port => s.answerUnbind port
  | .play _ port segments => s.answerPlay port segments
  | .interject _ port segments => s.answerInterject port segments
  | .stop _ port all => s.answerStop port all
  | .release _ port => s.answerRelease port
  | .abort _ port => s.answerAbort port
  | .portReset _ port => s.answerPortReset port
  | .portStatus _ port => s.answerPortStatus port
  | .playoutSet _ port depth => s.answerPlayoutSet port depth
  | .test _ port mode n y seed clearCounts => s.answerTestStart port mode n y seed clearCounts
  | .testInsert _ port insertion => s.answerTestInsert port insertion
  | .levelSet _ thresholds => s.answerLevelSet thresholds
  | .detectorSet _ speechClass speechCount quietLength startTimeout => s.answerDetectorSet speechClass speechCount quietLength startTimeout
  | .rampSet _ fadeIn fadeOut => s.answerRampSet fadeIn fadeOut
  | .voiceSettingsRead _ => s.answerVoiceSettings
  | .lampMap _ box shelf station => s.answerLampMap box shelf station
  | .lampUnmap _ box => s.answerLampUnmap box
  | .lampSource _ box source => s.answerLampSource box source
  | .lampSet _ slowOn slowOff fastOn fastOff fastForUrgent settle => s.answerLampSet slowOn slowOff fastOn fastOff fastForUrgent settle
  | .lampRefresh _ scope => s.answerLampRefresh scope
  | .lampStatusBox _ box => s.answerLampStatusBox box
  | .lampStatusShelf _ shelf => s.answerLampStatusShelf shelf
  | .lineSet _ retryLimit => s.answerLineSet retryLimit
  | .powerOnColdStart _ | .warmRestartRecovery | .formatRun | .controlFrameReceived _
  | .frameByteTimeout | .unknownKindRequest _ _ _ | .transmitFrameDone | .frameTime _
  | .stopFadeEnd _ | .captureFrameStore _ | .detectorQuiet _ | .detectorStartTimeout _
  | .captureLimitReached _ | .fillCompletion _ _ | .writeCompletion _ _
  | .flashOperationTimeout | .jobStep | .minuteTimerExpiry | .sweepStep | .settleTimerExpiry _
  | .downLineFrameDone | .ackTimerExpiry _ | .probeTimerExpiry _ | .pauseExpiry _ | .ackDone _ _
  | .ackNoStation _ _ | .ackLampFault _ _ | .shelfRestart _ _ | .shelfPause _ _ _
  | .stationFault _ _ _ | .upLineBadFrame _ | .upLineByteTimeout | .lengthFieldAbove1020 _ =>
    (s, .refused .unknownKind 0)

/-- The answer to a taken frame: a kind that names no request is refused with UNKNOWN_KIND, a faulty
body with LENGTH or RANGE, and the request answers otherwise (R178 tests 2 to 4). -/
def State.answerFrame (s : State) (f : RxFrame) : State × Reply :=
  if isRequestKind f.kind then
    match parseRequest f.kind f.tag f.body with
    | .ok i => s.answerTo i
    | .error e => (s, faultReply e)
  else (s, .refused .unknownKind 0)

/-- A frame is taken and answered (R178). -/
def State.takeFrame (s : State) (f : RxFrame) : State :=
  s.handle f.kind f.tag fun t => t.answerFrame f

/-- The head of the receive queue is taken where no reply is unsent (R178). -/
def State.takeNext (s : State) : State :=
  if s.link.replyUnsent then s
  else
    match s.link.receiveQueue with
    | [] => s
    | f :: _ => (s.onLink Link.dequeue).takeFrame f

/-- The framer takes a byte, and a frame that the byte completes is taken where the link is free
(R177, R178). -/
def State.takeByte (s : State) (b : Byte) : State := (s.onLink fun l => l.takeByte b).takeNext

/-- The framer takes bytes in order (R177). -/
def State.takeBytes (s : State) (bs : List Byte) : State := bs.foldl State.takeByte s

/-- A good frame arrives: it joins the receive queue, and is taken where the link is free (R177,
R178). -/
def State.arrive (s : State) (f : RxFrame) : State := (s.onLink fun l => l.queueFrame f).takeNext

/-! ## Events -/

/-- CONTROL_FRAME_RECEIVED: the framer takes the bytes (R177, R178; assumption 36). -/
def execControlFrameReceived (bytes : List Byte) (s : State) : Host.Outcome State Fault Refusal :=
  .next (s.takeBytes bytes)

/-- LENGTH_FIELD_ABOVE_1020: the framer takes the bytes, and discards the frame when its length field
is complete (R177). -/
def execLengthFieldAbove1020 (bytes : List Byte) (s : State) : Host.Outcome State Fault Refusal :=
  .next (s.takeBytes bytes)

/-- UNKNOWN_KIND_REQUEST: a good frame whose kind names no request arrives (R178). -/
def execUnknownKindRequest (tag kind : Nat) (body : List Byte) (s : State) :
    Host.Outcome State Fault Refusal :=
  .next (if isRequestKind kind then s else s.arrive ⟨kind, tag, body⟩)

/-- TRANSMIT_FRAME_DONE: the head frame of the transmit FIFO has been sent, and where it was the reply
the next request is taken (R178, R180). -/
def execTransmitFrameDone (s : State) : Host.Outcome State Fault Refusal :=
  .next (s.onLink Link.frameSent).takeNext

end Sys2Proof.Machine
end

