-- ==== Sys2Proof/Machine/Dispatch.lean ====
section
/-! DEFINITION. The dispatch: one arm for each command, each a direct call of its meaning. -/

namespace Sys2Proof.Machine

def exec (i : Instr) (s : State) : Host.Outcome State Fault Refusal :=
  match i with
  | .powerOnColdStart directoryKept => Sys2Proof.Machine.execPowerOnColdStart directoryKept s
  | .warmRestartRecovery => Sys2Proof.Machine.execWarmRestartRecovery s
  | .formatRun => Sys2Proof.Machine.execFormatRun s
  | .controlFrameReceived bytes => Sys2Proof.Machine.execControlFrameReceived bytes s
  | .frameByteTimeout => Sys2Proof.Machine.execFrameByteTimeout s
  | .unknownKindRequest tag kind body => Sys2Proof.Machine.execUnknownKindRequest tag kind body s
  | .transmitFrameDone => Sys2Proof.Machine.execTransmitFrameDone s
  | .status tag => Sys2Proof.Machine.execStatus tag s
  | .restart tag => Sys2Proof.Machine.execRestart tag s
  | .format tag => Sys2Proof.Machine.execFormat tag s
  | .noticeMask tag mask => Sys2Proof.Machine.execNoticeMask tag mask s
  | .blockQuery tag block => Sys2Proof.Machine.execBlockQuery tag block s
  | .cacheQuery tag line => Sys2Proof.Machine.execCacheQuery tag line s
  | .recordingInfo tag id => Sys2Proof.Machine.execRecordingInfo tag id s
  | .promptClear tag slot => Sys2Proof.Machine.execPromptClear tag slot s
  | .boxAssign tag ext cls state => Sys2Proof.Machine.execBoxAssign tag ext cls state s
  | .boxSet tag box cls state ext => Sys2Proof.Machine.execBoxSet tag box cls state ext s
  | .boxClear tag box => Sys2Proof.Machine.execBoxClear tag box s
  | .boxInfo tag box clear => Sys2Proof.Machine.execBoxInfo tag box clear s
  | .profileRead tag cls => Sys2Proof.Machine.execProfileRead tag cls s
  | .profileSet tag cls fields => Sys2Proof.Machine.execProfileSet tag cls fields s
  | .list tag box => Sys2Proof.Machine.execList tag box s
  | .mark tag box position state => Sys2Proof.Machine.execMark tag box position state s
  | .delete tag box position => Sys2Proof.Machine.execDelete tag box position s
  | .forward tag boxA position boxB urgent => Sys2Proof.Machine.execForward tag boxA position boxB urgent s
  | .greetingClear tag box slot => Sys2Proof.Machine.execGreetingClear tag box slot s
  | .absenceSet tag box flag untilDay noDeposit => Sys2Proof.Machine.execAbsenceSet tag box flag untilDay noDeposit s
  | .trimSet tag guard cap => Sys2Proof.Machine.execTrimSet tag guard cap s
  | .listCreate tag list => Sys2Proof.Machine.execListCreate tag list s
  | .listInfo tag list start count => Sys2Proof.Machine.execListInfo tag list start count s
  | .listDelete tag list => Sys2Proof.Machine.execListDelete tag list s
  | .memberAdd tag list box => Sys2Proof.Machine.execMemberAdd tag list box s
  | .memberRemove tag list box => Sys2Proof.Machine.execMemberRemove tag list box s
  | .deliver tag recording list urgent => Sys2Proof.Machine.execDeliver tag recording list urgent s
  | .recall tag recording => Sys2Proof.Machine.execRecall tag recording s
  | .jobCancel tag job => Sys2Proof.Machine.execJobCancel tag job s
  | .jobStatus tag => Sys2Proof.Machine.execJobStatus tag s
  | .clockSet tag day minute => Sys2Proof.Machine.execClockSet tag day minute s
  | .clockRead tag => Sys2Proof.Machine.execClockRead tag s
  | .answer tag port ext reason urgent caller endOnSilence => Sys2Proof.Machine.execAnswer tag port ext reason urgent caller endOnSilence s
  | .record tag port target endOnSilence => Sys2Proof.Machine.execRecord tag port target endOnSilence s
  | .bind tag port slot => Sys2Proof.Machine.execBind tag port slot s
  | .unbind tag port => Sys2Proof.Machine.execUnbind tag port s
  | .play tag port segments => Sys2Proof.Machine.execPlay tag port segments s
  | .interject tag port segments => Sys2Proof.Machine.execInterject tag port segments s
  | .stop tag port all => Sys2Proof.Machine.execStop tag port all s
  | .release tag port => Sys2Proof.Machine.execRelease tag port s
  | .abort tag port => Sys2Proof.Machine.execAbort tag port s
  | .portReset tag port => Sys2Proof.Machine.execPortReset tag port s
  | .portStatus tag port => Sys2Proof.Machine.execPortStatus tag port s
  | .playoutSet tag port depth => Sys2Proof.Machine.execPlayoutSet tag port depth s
  | .test tag port mode n y seed clearCounts => Sys2Proof.Machine.execTest tag port mode n y seed clearCounts s
  | .testInsert tag port insertion => Sys2Proof.Machine.execTestInsert tag port insertion s
  | .levelSet tag thresholds => Sys2Proof.Machine.execLevelSet tag thresholds s
  | .detectorSet tag speechClass speechCount quietLength startTimeout => Sys2Proof.Machine.execDetectorSet tag speechClass speechCount quietLength startTimeout s
  | .rampSet tag fadeIn fadeOut => Sys2Proof.Machine.execRampSet tag fadeIn fadeOut s
  | .voiceSettingsRead tag => Sys2Proof.Machine.execVoiceSettingsRead tag s
  | .lampMap tag box shelf station => Sys2Proof.Machine.execLampMap tag box shelf station s
  | .lampUnmap tag box => Sys2Proof.Machine.execLampUnmap tag box s
  | .lampSource tag box source => Sys2Proof.Machine.execLampSource tag box source s
  | .lampSet tag slowOn slowOff fastOn fastOff fastForUrgent settle => Sys2Proof.Machine.execLampSet tag slowOn slowOff fastOn fastOff fastForUrgent settle s
  | .lampRefresh tag scope => Sys2Proof.Machine.execLampRefresh tag scope s
  | .lampStatusBox tag box => Sys2Proof.Machine.execLampStatusBox tag box s
  | .lampStatusShelf tag shelf => Sys2Proof.Machine.execLampStatusShelf tag shelf s
  | .lineSet tag retryLimit => Sys2Proof.Machine.execLineSet tag retryLimit s
  | .frameTime received => Sys2Proof.Machine.execFrameTime received s
  | .stopFadeEnd port => Sys2Proof.Machine.execStopFadeEnd port s
  | .captureFrameStore port => Sys2Proof.Machine.execCaptureFrameStore port s
  | .detectorQuiet port => Sys2Proof.Machine.execDetectorQuiet port s
  | .detectorStartTimeout port => Sys2Proof.Machine.execDetectorStartTimeout port s
  | .captureLimitReached port => Sys2Proof.Machine.execCaptureLimitReached port s
  | .fillCompletion line ending => Sys2Proof.Machine.execFillCompletion line ending s
  | .writeCompletion line ending => Sys2Proof.Machine.execWriteCompletion line ending s
  | .flashOperationTimeout => Sys2Proof.Machine.execFlashOperationTimeout s
  | .jobStep => Sys2Proof.Machine.execJobStep s
  | .minuteTimerExpiry => Sys2Proof.Machine.execMinuteTimerExpiry s
  | .sweepStep => Sys2Proof.Machine.execSweepStep s
  | .settleTimerExpiry box => Sys2Proof.Machine.execSettleTimerExpiry box s
  | .downLineFrameDone => Sys2Proof.Machine.execDownLineFrameDone s
  | .ackTimerExpiry shelf => Sys2Proof.Machine.execAckTimerExpiry shelf s
  | .probeTimerExpiry shelf => Sys2Proof.Machine.execProbeTimerExpiry shelf s
  | .pauseExpiry shelf => Sys2Proof.Machine.execPauseExpiry shelf s
  | .ackDone shelf number => Sys2Proof.Machine.execAckDone shelf number s
  | .ackNoStation shelf number => Sys2Proof.Machine.execAckNoStation shelf number s
  | .ackLampFault shelf number => Sys2Proof.Machine.execAckLampFault shelf number s
  | .shelfRestart shelf number => Sys2Proof.Machine.execShelfRestart shelf number s
  | .shelfPause shelf number time => Sys2Proof.Machine.execShelfPause shelf number time s
  | .stationFault shelf number station => Sys2Proof.Machine.execStationFault shelf number station s
  | .upLineBadFrame bytes => Sys2Proof.Machine.execUpLineBadFrame bytes s
  | .upLineByteTimeout => Sys2Proof.Machine.execUpLineByteTimeout s
  | .lengthFieldAbove1020 bytes => Sys2Proof.Machine.execLengthFieldAbove1020 bytes s

end Sys2Proof.Machine
end

