-- ==== Sys2Proof/Safety.lean ====
section
/-! DEFINITION. What a safe run is: the bounds that the manual sets on the module's queues and stacks,
and the canonical form of its tables, hold after each step; and when a request is handled at once. -/

namespace Sys2Proof.Machine

/-- The Link Interface within its bounds: at most one reply in the transmit FIFO (R178), at most 64
unsent notices (R180), at most 8 frames waiting (R177), and those only behind an unsent reply (R178), a
sequence number of 0 to 255 and STARTED enabled (R180). -/
def Link.bounded (l : Link) : Prop :=
  (l.fifo.filter (fun f => !f.isNotice)).length ≤ 1 ∧ l.noticeCount ≤ Config.noticeQueueSize ∧
    l.receiveQueue.length ≤ Config.receiveQueueSize ∧
    (l.receiveQueue ≠ [] → l.replyUnsent = true) ∧ l.sequence < 256 ∧
    maskEnables l.mask .started = true

/-- The Lamp Line Interface within its bounds: at most 8 orders in flight and at most one for a shelf
(R168), at most one acknowledgment waiting for a shelf (R169). -/
def LampLine.bounded (l : LampLine) : Prop :=
  l.orders.length ≤ Config.lampSlots ∧ (l.orders.map Order.shelf).Nodup ∧
    (l.ackQueue.map Prod.fst).Nodup

/-- A port within its bounds: a context stack of at most 3 frames (R122) and a capture queue of at
most 16 (R151). -/
def Port.bounded (q : Port) : Prop :=
  q.stack.length ≤ Config.maxStack ∧ q.capture.length ≤ Config.captureQueueSize

/-- The Retention Unit within its ranges: the day and the minute of the clock (R105), the cursor
(R108). -/
def Retention.bounded (t : Retention) : Prop :=
  (∀ c, t.clock = some c → c.day < 65536 ∧ c.minute < 1440) ∧
    ∀ b, t.cursor = some b → b < Config.numBoxes

/-- The module within its bounds: the link, the lamp line, every port, the job queue (R93), the clock
and the sweep. -/
def State.bounded (s : State) : Prop :=
  s.link.bounded ∧ s.line.bounded ∧ (∀ p, (s.port p).bounded) ∧ s.jobs.length ≤ Config.maxJobs ∧
    s.retention.bounded

/-- Directory memory with each of its tables in its canonical form. -/
def Directory.canonical (d : Directory) : Prop :=
  d.blocks.sorted = true ∧ d.recordings.sorted = true ∧ d.boxes.wf Box.unassigned = true ∧
    d.entries.sorted = true ∧ d.prompts.sorted = true ∧ d.lists.sorted = true ∧
    d.settings.depths.wf 16 = true

/-- The Block Cache with its lines and its pins in canonical form. -/
def Cache.canonical (c : Cache) : Prop := c.lines.wf Line.invalid = true ∧ c.pins.sorted = true

/-- The module with its flash array and every table in the one canonical form: numbers strictly
rising, and no row equal to what an unlisted number reads as. -/
def State.canonical (s : State) : Prop :=
  s.dir.canonical ∧ s.cache.canonical ∧ s.flash.wf unwrittenPayload = true ∧
    s.ports.wf Port.cold = true ∧ s.lamps.wf Lamp.unmapped = true ∧
    s.line.shelves.wf Shelf.cold = true

/-- A recording's books: its chain has as many blocks as its record says, all different and all its
own, and ends at its tail, which has no next link (R1, R6). -/
structure ChainBooks (d : Directory) (r : Nat) (v : Recording) : Prop where
  count : (d.chainOf v).length = v.blocks
  once : (d.chainOf v).Nodup
  own : ∀ b ∈ d.chainOf v, d.ownerOf b = some r
  last : (d.chainOf v).getLast? = some v.tail
  ends : d.nextOf v.tail = none

/-- The books of the block store: every block is in exactly one of the free pool, the chain of one
recording, DRAINING and RETIRED (R1, R2). The pool holds the FREE blocks, each once; a CHAINED block
stands in its owner's chain; and every chain is as its record says. -/
structure StoreBooks (d : Directory) : Prop where
  once : d.pool.blocks.Nodup
  free : ∀ b, b ∈ d.pool.blocks ↔ b < Config.numBlocks ∧ d.block b = none
  range : ∀ b, d.block b ≠ none → b < Config.numBlocks
  chains : ∀ r v, d.recordings.find r = some v → ChainBooks d r v
  owned : ∀ b r n, d.block b = some (.chained r n) →
    ∃ v, d.recordings.find r = some v ∧ b ∈ d.chainOf v

/-- The books of the Lamp Unit: the lamp queue holds exactly the QUEUED boxes, each once (R161, R162);
exactly the IN_FLIGHT boxes have an order, which carries their station and the cadence sent (R168,
R170); a box with no station is SETTLED (R158); and no two boxes have one station (R158). -/
structure LampBooks (s : State) : Prop where
  once : s.lampQueue.Nodup
  queued : ∀ b, b ∈ s.lampQueue ↔ (s.lamp b).state = .queued
  flying : ∀ b, (s.lamp b).state = .inFlight → ∃ o ∈ s.line.orders, o.box = some b
  served : ∀ o ∈ s.line.orders, ∀ b, o.box = some b → (s.lamp b).state = .inFlight ∧
    (s.lamp b).station = some (o.shelf, o.station) ∧ (s.lamp b).sent = some o.cadence
  unmapped : ∀ b, (s.lamp b).station = none → (s.lamp b).state = .settled
  apart : ∀ a b st, (s.lamp a).station = some st → (s.lamp b).station = some st → a = b

/-- The module with its books in order: those of the block store and of the Lamp Unit. -/
def State.booked (s : State) : Prop := StoreBooks s.dir ∧ LampBooks s

/-- The recording that a port's capture fills or seals (R77). -/
def Port.filling (q : Port) : Option Nat := q.op.bind OpRecord.recording

/-- The holds of a port on recording `r`: one for each segment that still plays it, and the capture
hold (R10). -/
def Port.holdCount (q : Port) (r : Nat) : Nat :=
  q.playHolds.count r + if q.filling = some r then 1 else 0

/-- The port holds and job holds on recording `r` (R10). -/
def State.holdsOn (s : State) (r : Nat) : Nat :=
  (s.ports.rows.map fun x => x.2.holdCount r).sum +
    (s.jobs.filter (fun j => j.recording == r)).length

/-- A port's books: a capture stands on a RECORDING or CLOSING port (R77, R115), play levels on a
PLAYING one (R115); an operation has no stacked level (R122), and nothing recorded plays from its tone
on (R81, R83). -/
structure PortBooks (q : Port) : Prop where
  capturing : q.filling ≠ none → q.state = .recording ∨ q.state = .closing
  resting : q.state ≠ .playing → q.level = none ∧ q.stack = []
  single : q.op ≠ none → q.stack = []
  tone : ∀ o l, q.op = some o → q.level = some l → (o.phase = .tone → l.holds = []) ∧
    holdsOf (l.segments.dropWhile (fun g => g.kind != .tone)) = []

/-- The books of references: every recording's count is 1 to 16,383 and equals the entries, greeting
slots, prompt slots, port holds and job holds that name it, and nothing names an EMPTY one (R10). An
OPEN or SEALING recording has its capture hold alone (R5), a SEALED one none (R8); an UNASSIGNED box
fills no greeting slot (R38, R42), job numbers differ (R94), and no port works and no job is queued while
FORMAT runs (R18). -/
structure HoldBooks (s : State) : Prop where
  count : ∀ r, ((s.recording r).map Recording.references).getD 0 = s.dir.namesOf r + s.holdsOn r
  range : ∀ r v, s.recording r = some v → 1 ≤ v.references ∧ v.references ≤ Config.maxRefs
  filling : ∀ r v, s.recording r = some v → v.state ≠ .sealed →
    v.references = 1 ∧ ∃ p, (s.port p).filling = some r
  filled : ∀ p r, (s.port p).filling = some r → ∃ v, s.recording r = some v ∧ v.state ≠ .sealed
  ports : ∀ p, PortBooks (s.port p)
  cleared : ∀ b g, (s.box b).state = .unassigned → (s.box b).greeting g = none
  numbers : (s.jobs.map Job.number).Nodup
  formatting : s.module = .starting .format →
    s.jobs = [] ∧ ∀ p, (s.port p).state = .free ∨ (s.port p).state = .idle

/-- The books of the Block Cache. No two lines hold one block (R19). A block that a line holds is
CHAINED, or DRAINING with its line WRITING and marked drop-on-completion (R3, R23). A MODIFIED or WRITING
line holds no block of a SEALED recording (R8, R12). The write-back queue holds MODIFIED lines, the fill
queues FILLING ones, each once (R29); the line of the write in flight is WRITING and holds its block,
that of the fill in flight is FILLING and in no queue (R31). A block in the wait queue waits once, is
CHAINED and has no line; one that waits for its ESTABLISH is the tail of an OPEN recording and holds no
stored frame (R6, R22, R27). An OPEN recording's frames fit its blocks (R6), and what a RECORDING port
fills is OPEN (R83, R127). -/
structure CacheBooks (s : State) : Prop where
  tags : ∀ m n b, (s.cache.line m).tag = some b → (s.cache.line n).tag = some b → m = n
  held : ∀ n b, (s.cache.line n).tag = some b → (∃ r next, s.dir.block b = some (.chained r next)) ∨
    s.dir.block b = some .draining ∧ (s.cache.line n).state = .writing ∧ (s.cache.line n).drop = true
  unwritten : ∀ n, (s.cache.line n).state = .modified ∨ (s.cache.line n).state = .writing →
    ∃ b, (s.cache.line n).tag = some b ∧
      ∀ r next v, s.dir.block b = some (.chained r next) → s.recording r = some v → v.state ≠ .sealed
  writes : s.cache.writeQueue.Nodup ∧ ∀ n ∈ s.cache.writeQueue, (s.cache.line n).state = .modified
  fills : (s.cache.urgentQueue ++ s.cache.fillQueue).Nodup ∧
    ∀ n ∈ s.cache.urgentQueue ++ s.cache.fillQueue, (s.cache.line n).state = .filling
  flying : ∀ op, s.cache.inFlight = some op →
    if op.write = true then
      (s.cache.line op.line).state = .writing ∧ (s.cache.line op.line).tag = some op.block
    else (s.cache.line op.line).state = .filling ∧
      op.line ∉ s.cache.urgentQueue ++ s.cache.fillQueue
  waiting : (s.cache.waitQueue.map WaitEntry.block).Nodup ∧
    ∀ e ∈ s.cache.waitQueue, s.cache.lineOf e.block = none ∧
      ∃ r next v, s.dir.block e.block = some (.chained r next) ∧ s.recording r = some v ∧
        ∀ c, e.kind = .establish c → v.state = .opened ∧ v.tail = e.block ∧
          v.frames ≤ (v.blocks - 1) * v.coding.fpb
  fits : ∀ r v, s.recording r = some v → v.state = .opened → v.frames ≤ v.blocks * v.coding.fpb
  opened : ∀ p r v, (s.port p).state = .recording → (s.port p).filling = some r →
    s.recording r = some v → v.state = .opened

/-- The block of a write in flight belongs to no SEALED recording (R12). -/
def State.writesUnsealed (s : State) : Prop :=
  ∀ op r next v, s.cache.inFlight = some op → op.write = true →
    s.dir.block op.block = some (.chained r next) → s.recording r = some v → v.state ≠ .sealed

/-- A safe step: one that ends in a next state within the bounds and in canonical form. -/
def State.stepsSafely (s : State) : Prop := ∃ t, step s = .next t ∧ t.bounded ∧ t.canonical

/-- No frame waits to be handled and no reply is unsent, so that a request is taken at once (R178). -/
def Link.clear (l : Link) : Prop := l.receiveQueue = [] ∧ l.replyUnsent = false

/-- A RUNNING module that takes a request at once (R178). -/
def State.ready (s : State) : Prop := s.running = true ∧ s.link.clear

/-- The module after an ACCEPTED reply with these fields has joined the transmit FIFO, and nothing
else (R178). -/
def State.answered (s : State) (kind tag : Nat) (fields : List Field) : State :=
  { s with link := { s.link with fifo := s.link.fifo ++ [.accepted kind tag fields] } }

/-- The module after a REFUSED reply has joined the transmit FIFO, and nothing else (R178). -/
def State.refusedWith (s : State) (kind tag : Nat) (reason : Reason) (detail : Nat) : State :=
  { s with link := { s.link with fifo := s.link.fifo ++ [.refused kind tag reason detail] } }

/-- A link and a pool level after the level has been evaluated against the free count `n`: a change
raises POOL_LEVEL with the old level, the new level and the count (R73). -/
def evalPool (x : Link × PoolLevel) (n : Nat) : Link × PoolLevel :=
  if x.2.step n = x.2 then x
  else (x.1.raise .poolLevel [b1 x.2.code, b1 (x.2.step n).code, b4 n], x.2.step n)

/-- The free counts through which blocks appended to the pool, or taken from it, lead one at a time
from `a` to `b` (R73). -/
def countsTo (a b : Nat) : List Nat := List.range' (a + 1) (b - a) ++ (List.range' b (a - b)).reverse

/-- `m` is the link of `s`, and the pool level of `t` that of `s`, after the level has been evaluated at
each free count on the way from the pool of `s` to that of `t`, where the module is RUNNING: after the
POOL_LEVEL notices of these counts, and nothing else (R73, R76). -/
def State.poolNotices (s t : State) (m : Link) : Prop :=
  (m, t.dir.poolLevel) =
    if s.running = true then
      (countsTo s.dir.pool.size t.dir.pool.size).foldl evalPool (s.link, s.dir.poolLevel)
    else (s.link, s.dir.poolLevel)

/-- `q` is the write-back queue of `c` after a failed allocation: the least recently used unpinned
MODIFIED line stands at its tail, unless it stood in the queue already or there is none (R26). -/
def Cache.promotes (c : Cache) (q : List Nat) : Prop :=
  (∀ older n younger, c.recency = older ++ n :: younger →
    (c.line n).state = .modified → c.pinCount n = 0 →
    (∀ m ∈ older, (c.line m).state ≠ .modified ∨ c.pinCount m ≠ 0) →
    q = if n ∈ c.writeQueue then c.writeQueue else c.writeQueue ++ [n]) ∧
  ((∀ m ∈ c.recency, (c.line m).state ≠ .modified ∨ c.pinCount m ≠ 0) → q = c.writeQueue)

/-- The frames by which removing entry `e` un-charges its box (R49). -/
def State.uncharge (s : State) (e : Nat) : Nat :=
  match s.entry e with
  | some v => if v.source = .broadcast then 0 else s.framesOf v.recording
  | none => 0

/-- The number of the entries `es` that are NEW, and, where asked, urgent. -/
def State.newAmong (s : State) (es : List Nat) (urgent : Bool) : Nat :=
  (es.filter (fun e => (s.entry e).any (fun v => v.state == .new && (v.urgent || !urgent)))).length

/-- `t` is `s` after the entries `gone` of box `b` have been removed and the box changed by `f` beside
(R49): the entries are free, their box's list, counts and charge follow, each of their recordings has
one reference less or, with none left, is freed; other boxes, entries and recordings are as they
were. -/
def State.removed (s t : State) (b : Nat) (gone : List Nat) (f : Box → Box) : Prop :=
  (∀ e ∈ gone, t.entry e = none) ∧ (∀ e, e ∉ gone → t.entry e = s.entry e) ∧
    t.box b = f { s.box b with
      messages := (s.box b).messages.filter (fun e => decide (e ∉ gone))
      newCount := (s.box b).newCount - s.newAmong gone false
      urgentNew := (s.box b).urgentNew - s.newAmong gone true
      charged := (s.box b).charged - (gone.map s.uncharge).sum } ∧
    (∀ c, c ≠ b → t.box c = s.box c) ∧
    (∀ e ∈ gone, ∀ v w, s.entry e = some v → s.recording v.recording = some w →
      t.recording v.recording =
        if w.references ≤ 1 then none else some { w with references := w.references - 1 }) ∧
    (∀ r, (∀ e ∈ gone, ∀ v, s.entry e = some v → v.recording ≠ r) →
      t.recording r = s.recording r) ∧
    { t.dir with
      blocks := s.dir.blocks, pool := s.dir.pool, poolLevel := s.dir.poolLevel,
      recordings := s.dir.recordings, boxes := s.dir.boxes, entries := s.dir.entries } = s.dir ∧
    s.poolNotices t t.link ∧
    { t with dir := s.dir, cache := s.cache, lamps := s.lamps, lampQueue := s.lampQueue,
             line := s.line, link := s.link } = s

/-- `t` has the recordings of `s` after the holds `rs` on them were released: each has one reference
less for every time it stands in `rs`, and is freed where none is left (R10, R11). -/
def State.released (s t : State) (rs : List Nat) : Prop :=
  ∀ r, t.recording r = (s.recording r).bind fun v =>
    if rs.count r = 0 then some v
    else if v.references ≤ rs.count r then none
    else some { v with references := v.references - rs.count r }

/-- `t` has the boxes of `s`, but that the deposit which operation `o` holds, if any, has been settled
without a charge (R71). -/
def State.settledFor (s t : State) (o : OpRecord) : Prop :=
  ∀ b, t.box b = if o.depositHeld = true ∧ o.target = .box b then { s.box b with
    reserved := (s.box b).reserved - o.limit
    pendingDeposits := (s.box b).pendingDeposits - 1 } else s.box b

/-- The fields of a PORT_DONE of operation `o` on port `p` that names no recording: the outcome, the end
reason where there is one, and the target's box where it has one (R92, R128). -/
def OpRecord.doneWithout (o : OpRecord) (p outcome : Nat) (why : Option EndReason)
    (underflows : Nat) : List Field :=
  [b1 p, b1 (if o.answer then 1 else 2), b1 outcome] ++
    bOpt (fun w => [b1 (EndReason.code w)]) why ++ [b1 0, b1 0, b1 0] ++
    bOpt (fun b => [b2 b]) o.target.box? ++ [b1 0, b1 0, b2 underflows]

/-- Nothing but the block store, the cache, the ports and the link differs between `s` and `t`. -/
def State.sameElsewhere (s t : State) : Prop :=
  { t.dir with
    blocks := s.dir.blocks, pool := s.dir.pool, poolLevel := s.dir.poolLevel,
    recordings := s.dir.recordings } = s.dir ∧
  { t with dir := s.dir, cache := s.cache, ports := s.ports, link := s.link } = s

/-- `t` is `s` after the STOP fade of port `p`, which plays level `l`, has ended, with the all flag in
force or not (R85, R124). A play list: a stacked level resumes with a fade-in where there is one and the
flag is not given; else every level ends, its holds released, with PORT_DONE STOPPED. An operation: a
refusal prompt ends NOT_ADMITTED, a greeting without a deposit GREETING_ONLY; an admitted greeting gives
way to the tone, one that was not admitted to its refusal prompt, or ends NOT_ADMITTED where there is
none. -/
def State.fadeEnds (s t : State) (p : Nat) (l : Level) (all : Bool) : Prop :=
  (∀ q, q ≠ p → t.port q = s.port q) ∧
  ((s.port p).op = none →
    (∀ rs, rs = holdsOf l.segments ++ (s.port p).stack.flatMap (fun m => holdsOf m.segments) →
      (s.port p).stack = [] ∨ all = true →
      t.port p = (s.port p).rested ∧ s.released t rs ∧ (rs = [] → t.dir = s.dir) ∧
        s.sameElsewhere t ∧ ∃ m, s.poolNotices t m ∧
          t.link = m.raise .portDone [b1 p, b1 0, b1 1, b1 1, b1 0, b1 0, b1 0, b1 0, b1 0, b1 0,
            b1 0, b2 (s.port p).underflowCount]) ∧
    ∀ top stack h more, all = false → (s.port p).stack = top :: stack → top.segments = h :: more →
      top.position < h.stop →
      t.port p = { s.port p with
        level := some top, stack := stack, playout := [], next := some (top.index, top.position)
        lookahead := (t.port p).lookahead, fadeIn := some 1, stopFade := none } ∧
      s.released t (holdsOf l.segments) ∧ s.poolNotices t t.link ∧ s.sameElsewhere t) ∧
  ∀ o, (s.port p).op = some o →
    (∀ outcome, (o.phase = .refusal ∧ outcome = 3 ∨
        o.phase = .greeting ∧ o.depositHeld = false ∧ (o.noDeposit = true ∧ outcome = 4 ∨
          o.noDeposit = false ∧ outcome = 3 ∧ ∀ g ∈ l.segments, g.refusal = false)) →
      t.port p = (s.port p).rested ∧ s.released t (s.port p).playHolds ∧ s.settledFor t o ∧
        (∃ m, s.poolNotices t m ∧ t.link = m.raise .portDone
          (o.doneWithout p outcome o.endReason (s.port p).underflowCount)) ∧
        { t.dir with
          blocks := s.dir.blocks, pool := s.dir.pool, poolLevel := s.dir.poolLevel,
          recordings := s.dir.recordings, boxes := s.dir.boxes } = s.dir ∧
        { t with dir := s.dir, cache := s.cache, ports := s.ports, lamps := s.lamps,
                 lampQueue := s.lampQueue, line := s.line, link := s.link } = s) ∧
    (o.phase = .greeting → o.depositHeld = true →
      t.port p = { s.port p with
        op := some { o with phase := .tone }
        level := some ⟨l.index + l.segments.length, [⟨.tone, none, 0, 25, false⟩], 0⟩
        stack := [], playout := [], next := some (l.index + l.segments.length, 0)
        lookahead := [], fadeIn := some 1, stopFade := none } ∧
      s.released t (holdsOf l.segments) ∧ s.poolNotices t t.link ∧ s.sameElsewhere t) ∧
    ∀ (gone : List Segment) (h : Segment), o.phase = .greeting → o.depositHeld = false →
      o.noDeposit = false → l.segments = gone ++ [h] → (∀ g ∈ gone, g.refusal = false) →
      h.refusal = true → h.start < h.stop →
      t.port p = { s.port p with
        op := some { o with phase := .refusal }
        level := some ⟨l.index + gone.length, [h], h.start⟩
        stack := [], playout := [], next := some (l.index + gone.length, h.start)
        lookahead := (t.port p).lookahead, fadeIn := some 1, stopFade := none } ∧
      s.released t (holdsOf gone) ∧ s.poolNotices t t.link ∧ s.sameElsewhere t

/-- `t` is `s` after segment `g` has completed (R120, R121): its recording has one hold less, its message
is marked HEARD where it is marked on completion and still NEW, and where it marks nothing only that hold,
the time, the cache, the ports and the link have changed. -/
def State.completes (s t : State) (g : Segment) : Prop :=
  (∀ q, t.recording q = (s.recording q).map fun w => { w with
    references := w.references - (if g.recording = some q then 1 else 0) }) ∧
  (∀ b r e v, g.kind = .message b true → g.recording = some r →
    s.dir.entryFor b r = some e → s.entry e = some v → v.box = b → v.state = .new →
    t.entry e = some { v with state := .heard, stateDay := s.day } ∧
      (t.box b).newCount = (s.box b).newCount - 1) ∧
  ((∀ b, g.kind ≠ .message b true) →
    { t.dir with recordings := s.dir.recordings } = s.dir ∧
    { t with now := s.now, transmit := s.transmit, dir := s.dir, cache := s.cache,
             ports := s.ports, link := s.link } = s)

/-- The blocks that playing port `p` touches at a frame time whose send takes its queue from `before`
frames to `left` (R149; assumptions 25, 48, 60): where the fill falls below half the depth, each lookahead
block not yet copied from, and else each that no line holds and no entry of the wait queue asks for, but
for the block of the next frame where the copy that follows will touch it. -/
def State.touchesAt (s : State) (p before left : Nat) : List Nat :=
  if left < s.dir.settings.depth p / 2 ∧ s.dir.settings.depth p / 2 ≤ before then
    (s.lookaheadOf p).filter (fun b => !s.copiesFrom p b)
  else (s.lookaheadOf p).filter fun b =>
    s.cache.lineOf b = none ∧ (∀ e ∈ s.cache.waitQueue, e.block ≠ b) ∧
      ¬ (left < s.dir.settings.depth p ∧ s.nextBlock p = some b)

/-- The cache after these touches, urgent where `left` is below half the depth (R149). -/
def State.touchedAt (s : State) (p before left : Nat) : Cache :=
  (s.touchesAt p before left).foldl
    (fun c b => (c.touch b (decide (left < s.dir.settings.depth p / 2)) p).1) s.cache

/-- `placed` is `list` with entry `e` of band `k` put behind the last entry of its own or an earlier band,
the others in their order (R47). -/
def Directory.placedIn (d : Directory) (k e : Nat) (list placed : List Nat) : Prop :=
  ∃ older younger, list = older ++ younger ∧ placed = older ++ e :: younger ∧
    (∀ i ∈ older, d.bandOf i ≤ k) ∧
    (list.Pairwise (fun i j => d.bandOf i ≤ d.bandOf j) → ∀ i ∈ younger, k < d.bandOf i)

/-- `t` has the store and the cache of `s` after recording `r`'s chain, the blocks `older`, then `b`, then
`younger`, has been cut at block `b`, which line `n` held: `b` is RETIRED and its line INVALID, the blocks
behind it are the pool, the block before it is the tail, and the lines of all other blocks stay, those in
the write-back queue in their place there (R13). -/
def State.cutAt (s t : State) (n b r : Nat) (older younger : List Nat) : Prop :=
  t.dir.block b = some .retired ∧ (∀ a ∈ younger, t.dir.block a = none) ∧
    t.dir.pool.blocks = younger ∧
    (∀ a, older.getLast? = some a → t.dir.block a = some (.chained r none)) ∧
    (∀ c, c ≠ b → c ∉ younger → older.getLast? ≠ some c → t.dir.block c = s.dir.block c) ∧
    (∀ q, q ≠ r → t.recording q = s.recording q) ∧
    { t.dir with blocks := s.dir.blocks, recordings := s.dir.recordings, pool := s.dir.pool,
                 poolLevel := s.dir.poolLevel } = s.dir ∧
    t.cache.line n = Line.invalid ∧
    (∀ m, m ≠ n → (∀ a ∈ younger, (s.cache.line m).tag ≠ some a) →
      t.cache.line m = s.cache.line m ∧ (m ∈ s.cache.writeQueue → m ∈ t.cache.writeQueue)) ∧
    t.cache.waitQueue = [] ∧ t.cache.writeErrors = sat16 s.cache.writeErrors ∧
    s.poolNotices t t.link ∧
    { t with dir := s.dir, cache := s.cache, ports := s.ports, link := s.link } = s

/-- `t` after the failed write of block `b` from line `n`, for recording `r`, has been reported as a cut
and the scheduler, now free, has chosen (R34, R35, R30). -/
def State.cutReported (t : State) (n b r : Nat) : State :=
  { t with
    cache := Cache.schedule { t.cache with inFlight := none }
    link := t.link.raise .storageFault [bf true, bf false, b4 b, b2 n, b1 1, b2 r, b1 3] }

/-- A port as the end of a capture leaves its detector: a move to QUIET that is due is made, with its
counter and flag, and no start timeout is due (R138, R140). -/
def Port.settled (q : Port) : Port :=
  if q.detector.quietDue = true then
    { q with
      detector := { q.detector with state := .quiet, quietDue := false, timeoutDue := false }
      counters := { q.counters with quiets := sat16 q.counters.quiets }
      flags := { q.flags with quiet := true } }
  else { q with detector := { q.detector with timeoutDue := false } }

/-- Shelf `sh` can take a new order: UP, not paused, no order of its own in flight (R170). -/
def State.takesOrder (s : State) (sh : Nat) : Prop :=
  (s.shelf sh).up = true ∧ (s.shelf sh).pausedUntil = none ∧ ∀ o ∈ s.line.orders, o.shelf ≠ sh

/-- A due probe of shelf `sh` can be sent: DOWN, not paused, no order of its own in flight, and a box
of it in the lamp queue (R173). -/
def State.takesProbe (s : State) (sh : Nat) : Prop :=
  (s.shelf sh).up = false ∧ (s.shelf sh).pausedUntil = none ∧ (∀ o ∈ s.line.orders, o.shelf ≠ sh) ∧
    ∃ b ∈ s.lampQueue, ∃ st, (s.lamp b).station = some (sh, st)

/-- A cache with nothing waiting for a line or for the flash array. -/
def Cache.quiet (c : Cache) : Prop :=
  c.waitQueue = [] ∧ c.urgentQueue = [] ∧ c.writeQueue = [] ∧ c.fillQueue = []

/-- A reply to the request of a kind and tag (R178). -/
def OutFrame.answers (f : OutFrame) (kind tag : Nat) : Prop :=
  (∃ fields, f = .accepted kind tag fields) ∨ ∃ reason detail, f = .refused kind tag reason detail

/-- The lamps of `t` are those of `s` as a start refreshes them (R167): every mapped record has the
cadence wanted now and no confirmed one, and is QUEUED, in ascending box number; where the down line is
free, `sends`, the first of them is IN_FLIGHT instead. Every other record is SETTLED. -/
def State.lampsRefreshed (s t : State) (sends : Bool) : Prop :=
  ∃ mapped : List Nat, mapped.Pairwise (· < ·) ∧ (∀ b, b ∈ mapped ↔ (s.lamp b).station ≠ none) ∧
    t.lampQueue = (if sends then mapped.drop 1 else mapped) ∧
    (∀ b ∈ mapped, t.lamp b = { Lamp.unmapped with
      station := (s.lamp b).station
      source := (s.lamp b).source
      wanted := t.dir.wanted b (s.lamp b).source
      state := if sends = true ∧ mapped.head? = some b then .inFlight else .queued
      sent := if sends = true ∧ mapped.head? = some b then
        some (t.dir.wanted b (s.lamp b).source) else none }) ∧
    ∀ b, b ∉ mapped → (t.lamp b).state = .settled ∧ (t.lamp b).confirmed = none

/-- The clock and the sweep as a warm restart or FORMAT leaves them: the pass that ran is abandoned and
its mark cleared; a pass that is owed starts with the clock's day from box 0 (R114). -/
def Retention.restarted (t : Retention) : Retention :=
  { t with
    cursor := if t.owed = true then t.clock.map (fun _ => 0) else none
    sweepDay := if t.owed = true then t.clock.map Clock.day else none
    rerun := false, expired := 0, owed := false }

/-- `t` is `s` after start-up recovery: RUNNING, with ports and jobs cleared, the directory's boxes,
messages, prompts, lists, profiles and settings kept but for the deposits' reservations, no DRAINING
block, and the lamps' stations and sources kept (R16, R17). The SEALED recordings that something names
are kept, their counts recounted and their chains and blocks as they were, and no others; RETIRED blocks
stay. The lamps are refreshed (R167). -/
def State.recovered (s t : State) (sends : Bool) : Prop :=
  t.running = true ∧ t.ports = ⟨[]⟩ ∧ t.jobs = [] ∧ t.flash = s.flash ∧ t.pending = s.pending ∧
    t.dir.signature = s.dir.signature ∧ t.dir.entries = s.dir.entries ∧
    t.dir.profiles = s.dir.profiles ∧ t.dir.prompts = s.dir.prompts ∧ t.dir.lists = s.dir.lists ∧
    t.dir.settings = s.dir.settings ∧
    (∀ b, t.box b = { s.box b with reserved := 0, pendingDeposits := 0 }) ∧
    (∀ r v, t.recording r = some v →
      v.state = .sealed ∧ v.references = t.dir.namesOf r ∧ 0 < v.references) ∧
    (∀ b, t.dir.block b ≠ some .draining) ∧
    t.dir.poolLevel = (if 16384 ≤ t.dir.pool.size then .normal
      else if 4096 ≤ t.dir.pool.size then .low else .critical) ∧
    (∀ b, (t.lamp b).station = (s.lamp b).station ∧ (t.lamp b).source = (s.lamp b).source) ∧
    (s.dir.canonical → StoreBooks s.dir →
      (∀ r v, s.recording r = some v → v.state = .sealed → 0 < s.dir.namesOf r →
        t.recording r = some { v with references := s.dir.namesOf r } ∧
          t.dir.chainOf v = s.dir.chainOf v ∧
          ∀ b ∈ s.dir.chainOf v, t.dir.block b = s.dir.block b) ∧
      ∀ b, s.dir.block b = some .retired → t.dir.block b = some .retired) ∧
    (s.canonical → s.lampsRefreshed t sends)

end Sys2Proof.Machine
end

