-- ==== Sys2Proof/Certificates/Slice0/Obligations.lean ====
section
/-! DEFINITION. The statements about the module, for the provers. Each cites the rules of spec/ that it
formalises, and names the assumption where a clause is the model's own choice. -/

open Sys2Proof Sys2Proof.Machine

/-! ## The step and the starts -/

/-- One step is the front command's effect on the module with the queue's rest; on an empty queue the
module idles, which is the model's choice (assumption 2). -/
def Obligations.StepTakesFrontCommand : Prop :=
  (∀ (c : Instr) (s : State), step { s with pending := c :: s.pending } = exec c s) ∧
    ∀ s : State, s.pending = [] → step s = .next s

/-- R16, R37, R104, R114, R130, R167, R182, R183: power applied to a module whose directory memory was
kept runs recovery, and the module is RUNNING with one notice, STARTED. The SEALED recordings that
something names stay with their frames, chains and blocks, their counts recounted; every mapped lamp is
queued anew in ascending box number, and the first of them is sent, the down line being idle at a cold
start (the model's choice, assumption 64). -/
def Obligations.ColdStartRecoversDirectory : Prop :=
  ∀ s : State, s.dir.signature = true → ∃ t : State,
    exec (.powerOnColdStart true) s = .next t ∧ s.recovered t true ∧ t.cache = Cache.cold ∧
      t.retention = Retention.cold ∧
      t.link = { Link.cold false with
        fifo := [.notice .started 0
          [b1 StartCause.cold.code, b4 t.dir.pool.size, b1 t.dir.poolLevel.code]]
        sequence := 1 }

/-- R17, R37, R76, R104, R114, R130, R167, R169, R182, R183: WARM_RESTART_RECOVERY on a module in the STARTING
of a warm restart, with no request waiting, runs recovery; while one waits, which is still to be refused
with STARTING before STARTED, the recovery does not end and nothing changes (assumption 22). The cache is
emptied with its counters kept, and with it the operation in flight is forgotten, which is the model's
reading (assumption 23); the clock, the receiver and the mask stay. The one notice raised is STARTED, with
cause WARM, the free count and the level that it gives; behind it a pass that is owed starts with the
clock's day from box 0, and any other is abandoned. Recordings and lamps are recovered as at a cold start,
but that a frame which the down line still sends, and which is finished (assumption 34), lets no order go
out. -/
def Obligations.WarmRestartRecovers : Prop :=
  ∀ s : State, s.module = .starting .warm →
    (s.link.receiveQueue ≠ [] → exec .warmRestartRecovery s = .next s) ∧
    (s.link.receiveQueue = [] → ∃ t : State,
      exec .warmRestartRecovery s = .next t ∧ s.recovered t s.line.sending.isNone ∧
        t.cache = s.cache.emptied ∧ t.retention = s.retention.restarted ∧
        ∃ m : Link, m = s.link.raise .started
            [b1 1, b4 t.dir.pool.size, b1 t.dir.poolLevel.code] ∧
          t.link = { m with flags := { m.flags with
            restarted := true
            clockUnset := m.flags.clockUnset || s.retention.clock.isNone } })

/-- R18, R37, R61, R76, R114, R167, R182: FORMAT_RUN on a module in the STARTING of FORMAT empties the store. Every
block is FREE and in the pool but the RETIRED ones; recordings, boxes, entries, prompts and lists are
gone; profiles and settings stay; no lamp is mapped. The pool level is that of the free count, with no
POOL_LEVEL notice; STARTED with cause FORMAT, the free count and the level is the one notice raised, and
behind it the pass that a day change in STARTING owes starts with the clock's day, while any other is
abandoned. -/
def Obligations.FormatEmptiesStore : Prop :=
  ∀ s : State, s.module = .starting .format → s.dir.canonical → ∃ t : State,
    exec .formatRun s = .next t ∧ t.running = true ∧
      (∀ b, t.dir.block b = if s.dir.block b = some .retired then some .retired else none) ∧
      (∀ b, b ∈ t.dir.pool.blocks ↔ b < Config.numBlocks ∧ s.dir.block b ≠ some .retired) ∧
      t.dir.recordings = ⟨[]⟩ ∧ t.dir.boxes = ⟨[]⟩ ∧ t.dir.entries = ⟨[]⟩ ∧ t.dir.prompts = ⟨[]⟩ ∧
      t.dir.lists = ⟨[]⟩ ∧ t.dir.profiles = s.dir.profiles ∧ t.dir.settings = s.dir.settings ∧
      t.dir.signature = true ∧
      t.dir.poolLevel = (if 16384 ≤ t.dir.pool.size then .normal
        else if 4096 ≤ t.dir.pool.size then .low else .critical) ∧
      t.retention = s.retention.restarted ∧
      (∃ m : Link, m = s.link.raise .started
          [b1 2, b4 t.dir.pool.size, b1 t.dir.poolLevel.code] ∧
        t.link = { m with flags := { m.flags with restarted := true } }) ∧
      t.cache = s.cache.emptied ∧ t.lamps = ⟨[]⟩ ∧ t.lampQueue = [] ∧
      (∀ o ∈ t.line.orders, o.box = none) ∧
      { t with module := s.module, dir := s.dir, cache := s.cache, retention := s.retention,
               lamps := s.lamps, lampQueue := s.lampQueue, line := s.line, link := s.link } = s

/-! ## The control link -/

/-- R177, R178, R184: the bytes of a good frame, taken by a hunting framer, are taken at once where no
reply is unsent: as the request that they spell, or refused with LENGTH or RANGE for a faulty body,
with UNKNOWN_KIND for a kind that is no request, and with STARTING while the module is STARTING. Behind
an unsent reply the frame joins the receive queue, or counts an overrun where 8 wait. A frame whose
last check byte is wrong is discarded and counted. That a request command is the arrival of its frame
is the model's choice (assumption 4). -/
def Obligations.ControlBytesFormFrames : Prop :=
  ∀ (s : State) (kind tag : Nat) (body : List Byte),
    s.link.framer = .hunting → kind < 256 → tag < 256 → body.length ≤ Config.maxBody →
    (s.link.clear →
      (∀ i, requestFrame i = some (kind, tag, body) → parseRequest kind tag body = .ok i →
        exec (.controlFrameReceived (linkFrame kind tag body)) s = exec i s) ∧
      (∀ fault, isRequestKind kind = true → parseRequest kind tag body = .error fault →
        s.running = true ∨ kind = 0x01 →
        exec (.controlFrameReceived (linkFrame kind tag body)) s =
          .next (s.refusedWith kind tag (match fault with
            | .length => .length
            | .range => .range) 0)) ∧
      (isRequestKind kind = false → s.running = true →
        exec (.controlFrameReceived (linkFrame kind tag body)) s =
          .next (s.refusedWith kind tag .unknownKind 0)) ∧
      (s.running = false → kind ≠ 0x01 →
        exec (.controlFrameReceived (linkFrame kind tag body)) s =
          .next (s.refusedWith kind tag .starting 0))) ∧
    (s.link.replyUnsent = true →
      (s.link.receiveQueue.length < Config.receiveQueueSize →
        exec (.controlFrameReceived (linkFrame kind tag body)) s =
          .next { s with link := { s.link with
            receiveQueue := s.link.receiveQueue ++ [⟨kind, tag, body⟩] } }) ∧
      (Config.receiveQueueSize ≤ s.link.receiveQueue.length →
        exec (.controlFrameReceived (linkFrame kind tag body)) s =
          .next { s with link := { s.link with overruns := sat16 s.link.overruns } })) ∧
    (s.link.receiveQueue = [] ∨ s.link.replyUnsent = true →
      ∀ c, c ≠ (linkFrame kind tag body).getLastD 0 →
        exec (.controlFrameReceived ((linkFrame kind tag body).dropLast ++ [c])) s =
          .next { s with link := { s.link with framingErrors := sat16 s.link.framingErrors } })

/-- R177, R178, R180: a length field above 1,020 discards the frame and the framer hunts; so does a gap
of more than 50 ms inside a frame, and outside one it changes nothing; a frame sent to its last byte
leaves the transmit FIFO, and where it was not the reply, or nothing waits in the receive queue, nothing
else changes. The bytes that LENGTH_FIELD_ABOVE_1020 carries are the model's reading (assumption 36);
when a waiting frame is taken is that of assumption 4. -/
def Obligations.LinkEventsMoveFrames : Prop :=
  (∀ (s : State) (hi lo : Byte), s.link.framer = .hunting → 1020 < 256 * hi.toNat + lo.toNat →
    s.link.receiveQueue = [] ∨ s.link.replyUnsent = true →
    exec (.lengthFieldAbove1020 [byteOf 0xA5, hi, lo]) s =
      .next { s with link := { s.link with framingErrors := sat16 s.link.framingErrors } }) ∧
  (∀ (s : State) (bs : List Byte), s.link.framer = .collecting bs →
    exec .frameByteTimeout s = .next { s with link := { s.link with
      framer := .hunting, framingErrors := sat16 s.link.framingErrors } }) ∧
  (∀ s : State, s.link.framer = .hunting → exec .frameByteTimeout s = .next s) ∧
  ∀ s : State, s.link.receiveQueue = [] ∨ (∃ f ∈ s.link.fifo.drop 1, f.isNotice = false) →
    exec .transmitFrameDone s =
      .next { s with link := { s.link with fifo := s.link.fifo.drop 1 } }

/-- R177, R178, R182: while the module is STARTING every request but STATUS is refused with STARTING
and changes nothing; a request that arrives while a reply has not been sent waits at the tail of the
receive queue, or is lost and counted where 8 wait, and changes nothing else; a frame whose kind names
no request is refused with UNKNOWN_KIND, and with STARTING while the module is STARTING. A kind that
names a request is no such frame (assumption 4). -/
def Obligations.RequestsWaitOrAreRefused : Prop :=
  (∀ (i : Instr) (s : State) (kind tag : Nat) (body : List Byte),
    requestFrame i = some (kind, tag, body) →
    (kind ≠ 0x01 → s.running = false → s.link.clear →
      exec i s = .next (s.refusedWith kind tag .starting 0)) ∧
    (s.link.replyUnsent = true → s.link.receiveQueue.length < Config.receiveQueueSize →
      exec i s = .next { s with link := { s.link with
        receiveQueue := s.link.receiveQueue ++ [⟨kind, tag, body⟩] } }) ∧
    (s.link.replyUnsent = true → Config.receiveQueueSize ≤ s.link.receiveQueue.length →
      exec i s = .next { s with link := { s.link with
        overruns := sat16 s.link.overruns } })) ∧
  ∀ (s : State) (tag kind : Nat) (body : List Byte), s.link.clear →
    (isRequestKind kind = false →
      exec (.unknownKindRequest tag kind body) s = .next (s.refusedWith kind tag
        (if s.running = true then .unknownKind else .starting) 0)) ∧
    (isRequestKind kind = true → exec (.unknownKindRequest tag kind body) s = .next s)

/-- R178: every frame that is taken is answered by exactly one reply with its kind and tag, at the tail
of the transmit FIFO: a request that arrives on a free link at once, and the frame at the head of the
receive queue when the reply before it has been sent. That a request command is the arrival of its
frame is the model's choice (assumption 4). -/
def Obligations.EveryRequestAnsweredOnce : Prop :=
  (∀ (i : Instr) (s : State) (kind tag : Nat) (body : List Byte),
    requestFrame i = some (kind, tag, body) → i.wellFormed = true → s.link.clear →
    ∃ t older reply, exec i s = .next t ∧ t.link.receiveQueue = [] ∧
      t.link.fifo = older ++ [reply] ∧ reply.answers kind tag ∧
      ∀ f ∈ older, f.isNotice = true) ∧
  ∀ (s : State) (head : RxFrame) (rest : List RxFrame),
    (∀ f ∈ s.link.fifo.drop 1, f.isNotice = true) → s.link.receiveQueue = head :: rest →
    ∃ t older reply, exec .transmitFrameDone s = .next t ∧ t.link.receiveQueue = rest ∧
      t.link.fifo = older ++ [reply] ∧ reply.answers head.kind head.tag ∧
      ∀ f ∈ older, f.isNotice = true

/-- R119, R178, R184, R185: the bytes of every request that its sender can produce are read back as that
request, with every field at every value that its width admits. A play list of a count outside 1 to
16 is read as a RANGE fault, which is how the request is refused (R118 test 1), whatever the length of its
body (the model's reading, assumption 67). A code outside its list
is read too, and refused by its rule's tests, which is the model's reading (assumption 20). -/
def Obligations.RequestBytesRoundTrip : Prop :=
  ∀ (i : Instr) (kind tag : Nat) (body : List Byte), i.wellFormed = true →
    requestFrame i = some (kind, tag, body) →
    parseRequest kind tag body = .ok i ∨
      (∃ t p gs, (i = .play t p gs ∨ i = .interject t p gs) ∧
        (gs.length = 0 ∨ Config.maxSegments < gs.length) ∧
        parseRequest kind tag body = .error .range)

/-- R178, R181: STATUS is answered in every module state with the fields of R181 in order; it clears the
latched flags it shows and changes nothing else. That an UNSET clock travels as an absent optional field is
the model's reading (assumption 19). -/
def Obligations.StatusReportsAndClears : Prop :=
  ∀ (s : State) (tag : Nat), s.link.clear →
    exec (.status tag) s =
      .next (State.answered { s with link := { s.link with flags := StatusFlags.clear } } 0x01 tag
        ([bf s.running, b1 s.dir.poolLevel.code, b4 s.dir.pool.size, b4 s.dir.drainingCount,
            b4 s.dir.retiredCount] ++ bOpt bClock s.retention.clock ++
          [b1 s.jobs.length, b2 s.lampQueue.length, b1 s.line.orders.length,
            b2 s.cache.readErrors, b2 s.cache.writeErrors, b2 s.cache.flashTimeouts,
            b2 s.cache.droppedRequests, b2 s.link.framingErrors, b2 s.link.overruns,
            b2 s.link.lostNotices,
            bf s.link.flags.poolLevelChanged, bf s.link.flags.storageError,
            bf s.link.flags.shelfChanged, bf s.link.flags.lampFailed, bf s.link.flags.noticeLost,
            bf s.link.flags.clockUnset, bf s.link.flags.storeLost, bf s.link.flags.restarted]))

/-- R180: NOTICE MASK takes the mask with STARTED enabled. A notice sets its kind's flag; where the
mask enables it, it takes the next sequence number modulo 256, and joins the transmit FIFO, or is
lost and counted where 64 notices wait. -/
def Obligations.NoticesFollowMask : Prop :=
  (∀ (s : State) (tag mask : Nat), s.ready → mask < 256 →
    exec (.noticeMask tag mask) s =
      .next (State.answered
        { s with link := { s.link with mask := if mask < 128 then mask + 128 else mask } } 0x04 tag
        [b1 (if mask < 128 then mask + 128 else mask)])) ∧
  ∀ (l : Link) (k : NoticeKind) (fields : List Field),
    (maskEnables l.mask k = false → l.raise k fields = { l with flags := l.flags.raised k }) ∧
    (maskEnables l.mask k = true → l.noticeCount < Config.noticeQueueSize →
      l.raise k fields =
        { l with
          flags := l.flags.raised k
          sequence := (l.sequence + 1) % 256
          fifo := l.fifo ++ [.notice k l.sequence fields] }) ∧
    (maskEnables l.mask k = true → Config.noticeQueueSize ≤ l.noticeCount →
      l.raise k fields =
        { l with
          flags := { l.flags.raised k with noticeLost := true }
          sequence := (l.sequence + 1) % 256
          lostNotices := sat16 l.lostNotices })

/-- R18, R37, R114, R182: RESTART is accepted and the module is STARTING, its unsent notices removed but for
one being sent, and the end of the running or marked pass is remembered; FORMAT is refused with BUSY
unless every port is FREE or IDLE and no job is queued, and is then accepted and STARTING. That the
frame at the head of the transmit FIFO is the one being sent is the model's reading (assumption 34), as
are the STARTING states between the request and its recovery (assumption 22). -/
def Obligations.RestartAndFormatEnterStarting : Prop :=
  ∀ (s : State) (tag : Nat), s.ready →
    exec (.restart tag) s =
      .next (State.answered
        { s with
          module := .starting .warm
          link := { s.link with
            fifo := s.link.fifo.take 1 ++ (s.link.fifo.drop 1).filter (fun f => !f.isNotice) }
          retention := { s.retention with
            owed := s.retention.cursor.isSome || s.retention.rerun } } 0x02 tag []) ∧
    (s.canonical → (∀ p, (s.port p).state = .free ∨ (s.port p).state = .idle) → s.jobs = [] →
      exec (.format tag) s =
        .next (State.answered
          { s with module := .starting .format, retention := { s.retention with owed := false } }
          0x03 tag [])) ∧
    ((∃ p, (s.port p).state ≠ .free ∧ (s.port p).state ≠ .idle) ∨ s.jobs ≠ [] →
      exec (.format tag) s = .next (s.refusedWith 0x03 tag .busy 0))

/-! ## The block store and the cache -/

/-- R10, R11, R14, R55, R94: every step keeps the books of references: a recording's count equals the
entries, greeting slots, prompt slots, port holds and job holds that name it and is 1 to 16,383, and
nothing names an EMPTY recording. That the block of a write in flight belongs to no SEALED recording
(R12) is a premise, and StepKeepsCacheBooks says that every step keeps it. -/
def Obligations.ReferencesCountNames : Prop :=
  ∀ s t : State, s.canonical → s.bounded → HoldBooks s →
    s.writesUnsealed → step s = .next t → HoldBooks t

/-- R2, R3, R23, R73, R76: a freed block whose line is WRITING becomes DRAINING and its line is marked
drop-on-completion; any other freed block becomes FREE at the pool tail. Nothing else of the directory
changes but the pool level. The free pool is a FIFO of block numbers: a block appended stands last, the
block taken was first, and the free count is the number of blocks held. The pool level moves from NORMAL
to LOW below 16,384 free blocks, from LOW to CRITICAL below 4,096, back to LOW at 6,144 and to NORMAL at
20,480. Outside STARTING it is evaluated as each block is appended or taken, and a change raises
POOL_LEVEL with the old level, the new one and the free count; a chain that is freed is evaluated at each
of its blocks. At a start the level is that of the free count alone. -/
def Obligations.FreedBlockDrainsOrPools : Prop :=
  (∀ n : Nat,
    PoolLevel.normal.step n = (if n < 16384 then .low else .normal) ∧
    PoolLevel.low.step n = (if 20480 ≤ n then .normal else if n < 4096 then .critical else .low) ∧
    PoolLevel.critical.step n = (if 6144 ≤ n then .low else .critical) ∧
    PoolLevel.fromCount n =
      if 16384 ≤ n then .normal else if 4096 ≤ n then .low else .critical) ∧
  (PoolLevel.normal.code = 0 ∧ PoolLevel.low.code = 1 ∧ PoolLevel.critical.code = 2) ∧
  (∀ (s t : State) (b n : Nat),
    (t = s.freeBlock b ∧ n = s.dir.pool.size + 1 ∧
        (∀ m, s.cache.lineOf b = some m → (s.cache.line m).state ≠ .writing) ∨
      s.takeBlock = some (b, t) ∧ n + 1 = s.dir.pool.size) →
    t.dir.pool.size = n ∧
    (s.running = true → s.dir.poolLevel.step n ≠ s.dir.poolLevel →
      t.dir.poolLevel = s.dir.poolLevel.step n ∧ t.link = s.link.raise .poolLevel
        [b1 s.dir.poolLevel.code, b1 (s.dir.poolLevel.step n).code, b4 n]) ∧
    (s.running = false ∨ s.dir.poolLevel.step n = s.dir.poolLevel →
      t.dir.poolLevel = s.dir.poolLevel ∧ t.link = s.link)) ∧
  (∀ (s : State) (bs : List Nat), s.poolNotices (s.freeBlocks bs) (s.freeBlocks bs).link) ∧
  (∀ s : State, (s.takeBlock = none ↔ s.dir.pool.take = none) ∧
    ∀ b t, s.takeBlock = some (b, t) → s.dir.pool.take = some (b, t.dir.pool) ∧
      { t.dir with pool := s.dir.pool, poolLevel := s.dir.poolLevel } = s.dir ∧
      { t with dir := s.dir, link := s.link } = s) ∧
  (∀ (p : Pool) (b : Nat),
    (p.append b).blocks = p.blocks ++ [b] ∧ p.size = p.blocks.length ∧
      (p.take = none ↔ p.blocks = []) ∧ ∀ c q, p.take = some (c, q) → p.blocks = c :: q.blocks) ∧
  ∀ (s : State) (b : Nat),
    (∀ n, s.cache.lineOf b = some n → (s.cache.line n).state = .writing →
      (s.freeBlock b).dir = { s.dir with blocks := s.dir.blocks.put b .draining } ∧
        ((s.freeBlock b).cache.line n).drop = true ∧ (s.freeBlock b).link = s.link) ∧
    ((∀ n, s.cache.lineOf b = some n → (s.cache.line n).state ≠ .writing) →
      (s.freeBlock b).dir.pool = s.dir.pool.append b ∧ (s.freeBlock b).dir.block b = none ∧
        (∀ c, c ≠ b → (s.freeBlock b).dir.block c = s.dir.block c) ∧
        { (s.freeBlock b).dir with
          pool := s.dir.pool, blocks := s.dir.blocks, poolLevel := s.dir.poolLevel } = s.dir) ∧
    { s.freeBlock b with dir := s.dir, cache := s.cache, link := s.link } = s

/-- R3, R31, R33, R73: a write that succeeds stores the line's payload in its block and no other. A CHAINED
block's line becomes CLEAN; a DRAINING block's line, marked drop-on-completion, becomes INVALID, and
the block FREE at the pool tail. A completion that names no operation in flight, or that comes late,
for an abandoned operation, changes nothing, which is the model's reading (assumption 21). -/
def Obligations.WriteCompletionStoresBlock : Prop :=
  ∀ (s : State) (n b : Nat) (x : List Byte),
    (s.running = true → s.cache.inFlight = some ⟨true, n, b⟩ → s.cache.quiet →
      (∀ r next, s.dir.block b = some (.chained r next) →
        s.cache.line n = ⟨.writing, some b, false, x⟩ →
        (∀ v, s.recording r = some v → v.state ≠ .sealing) →
        exec (.writeCompletion n .succeeded) s =
          .next { s with
            flash := s.flash.write unwrittenPayload b x
            cache := { s.cache with
              lines := s.cache.lines.write Line.invalid n ⟨.clean, some b, false, x⟩
              inFlight := none } }) ∧
      (s.dir.block b = some .draining → s.cache.line n = ⟨.writing, some b, true, x⟩ →
        ∃ t : State, exec (.writeCompletion n .succeeded) s = .next t ∧
          t.dir.block b = none ∧ t.dir.pool = s.dir.pool.append b ∧
          (∀ c, c ≠ b → t.dir.block c = s.dir.block c) ∧
          t.flash = s.flash.write unwrittenPayload b x ∧
          t.cache = { s.cache with
            lines := s.cache.lines.write Line.invalid n Line.invalid, inFlight := none } ∧
          s.poolNotices t t.link ∧
          { t.dir with
            pool := s.dir.pool, blocks := s.dir.blocks, poolLevel := s.dir.poolLevel } = s.dir ∧
          { t with dir := s.dir, flash := s.flash, cache := s.cache, link := s.link } = s)) ∧
    ((∀ op, s.cache.inFlight = some op → op.write = false ∨ op.line ≠ n) →
      ∀ ending, exec (.writeCompletion n ending) s = .next s) ∧
    exec (.writeCompletion n .late) s = .next s

/-- R3, R7, R9, R12, R13, R25, R31, R34, R35, R70, R86: a write that fails. A DRAINING block becomes
RETIRED, its line INVALID, and STORAGE_FAULT tells RETIRED with no owner. A write that is 50 ms old is
handled as one that has failed, with the timeout counter raised and the cause TIMEOUT in STORAGE_FAULT. Of
a CHAINED block: with a block in the pool it is remapped: it becomes RETIRED, the block from the pool head takes its place in the chain (its
next link, the link of the block before it, the recording's head and tail), its line takes the new tag
with its payload and is MODIFIED and queued to be written, and STORAGE_FAULT tells REMAPPED. With an
empty pool the chain is cut: the failed block becomes RETIRED and its line INVALID, the blocks after it
are freed in chain order, and a recording that keeps a block ends, marked cut, at the block before;
STORAGE_FAULT tells CUT. A cut of an OPEN recording ends its capture with POOL, with no trim. A cut at
the head leaves no recording, and neither does one that leaves a SEALING recording under 50 frames or an
OPEN one to the discard tests: every block of it but the failed one is freed, the operation ends, its
deposit settled without a charge, and PORT_DONE tells TOO_SHORT, or EMPTY of an OPEN recording whose
detector heard no speech, with the reason of the capture's end. A cut of a SEALING recording that keeps
50 frames makes the seal test at once, and so does one of an OPEN recording once it is SEALING: with the
lines of the kept blocks all written the recording seals, and else it waits for them. Elsewhere nothing
changes, and the flash array is as it was (assumption 9). The presence bytes of PORT_DONE (assumption 19),
the end reason kept in the operation record (assumption 28), a move to QUIET that is due (assumption 6),
a cut under a discard mark (assumption 18) and PORT_DONE's place before STORAGE_FAULT (assumption 14) are
the model's readings. -/
def Obligations.FailedWriteRemapsBlock : Prop :=
  (∀ (s : State) (n b : Nat) (x : List Byte) (i : Instr) (late : Bool) (timeouts : Nat),
    s.running = true → s.cache.inFlight = some ⟨true, n, b⟩ → s.cache.waitQueue = [] →
    s.dir.block b = some .draining → s.cache.line n = ⟨.writing, some b, true, x⟩ →
    (i = .writeCompletion n .failed ∧ late = false ∧ timeouts = s.cache.flashTimeouts ∨
      i = .flashOperationTimeout ∧ late = true ∧ timeouts = sat16 s.cache.flashTimeouts) →
    exec i s = .next (State.raise
      { s with
        dir := { s.dir with blocks := s.dir.blocks.put b .retired }
        cache := Cache.schedule { s.cache with
          lines := s.cache.lines.write Line.invalid n Line.invalid
          writeErrors := sat16 s.cache.writeErrors
          flashTimeouts := timeouts
          inFlight := none } } .storageFault
      [bf true, bf late, b4 b, b2 n, b1 0, b1 4])) ∧
  (∀ (s : State) (n b : Nat), s.running = true → s.cache.inFlight = some ⟨true, n, b⟩ →
    ∃ (u : State) (rest : List Field),
      exec (.writeCompletion n .failed)
        { s with cache := { s.cache with flashTimeouts := sat16 s.cache.flashTimeouts } } =
          .next (u.raise .storageFault ([bf true, bf false, b4 b, b2 n] ++ rest)) ∧
      exec .flashOperationTimeout s =
        .next (u.raise .storageFault ([bf true, bf true, b4 b, b2 n] ++ rest))) ∧
  ∀ (s : State) (n b r : Nat) (next : Option Nat) (v : Recording) (x : List Byte)
    (older younger : List Nat),
    s.running = true → s.cache.inFlight = some ⟨true, n, b⟩ → s.cache.waitQueue = [] →
    s.cache.canonical → s.cache.lineOf b = some n → s.cache.line n = ⟨.writing, some b, false, x⟩ →
    s.dir.block b = some (.chained r next) → s.recording r = some v →
    s.dir.chainOf v = older ++ b :: younger → (s.dir.chainOf v).Nodup →
    (∀ a ∈ s.dir.chainOf v, s.dir.ownerOf a = some r) →
    (∀ b' pool, s.dir.pool.take = some (b', pool) → s.dir.block b' = none →
      ∃ (t : State) (m : Link), exec (.writeCompletion n .failed) s = .next t ∧
        t.dir.block b = some .retired ∧ t.dir.block b' = some (.chained r next) ∧
        (∀ a, older.getLast? = some a → t.dir.block a = some (.chained r (some b'))) ∧
        (∀ c, c ≠ b → c ≠ b' → older.getLast? ≠ some c → t.dir.block c = s.dir.block c) ∧
        t.dir.pool = pool ∧
        t.recording r = some { v with
          head := if v.head = b then b' else v.head, tail := if v.tail = b then b' else v.tail } ∧
        (∀ q, q ≠ r → t.recording q = s.recording q) ∧
        { t.dir with blocks := s.dir.blocks, recordings := s.dir.recordings, pool := s.dir.pool,
                     poolLevel := s.dir.poolLevel } = s.dir ∧
        t.cache = Cache.schedule { s.cache with
          lines := s.cache.lines.write Line.invalid n ⟨.modified, some b', false, x⟩
          writeQueue := if n ∈ s.cache.writeQueue then s.cache.writeQueue
            else s.cache.writeQueue ++ [n]
          writeErrors := sat16 s.cache.writeErrors
          inFlight := none } ∧
        s.poolNotices t m ∧
        t.link = m.raise .storageFault
          [bf true, bf false, b4 b, b2 n, b1 1, b2 r, b1 2, b4 b'] ∧
        { t with dir := s.dir, cache := s.cache, link := s.link } = s) ∧
    (s.dir.pool.take = none → (∀ m, m ≠ n → (s.cache.line m).state ≠ .writing) →
      (s.portFilling r = none → ∃ u : State, s.cutAt u n b r older younger ∧ u.ports = s.ports ∧
        u.recording r = older.getLast?.map (fun a =>
          { v with frames := older.length * v.coding.fpb, blocks := older.length, tail := a,
                   cut := true }) ∧
        exec (.writeCompletion n .failed) s = .next (u.cutReported n b r)) ∧
      ∀ (p a : Nat) (o : OpRecord) (w : Recording), s.portFilling r = some p →
        (s.port p).op = some o → o.recording = some r → older.getLast? = some a →
        Config.minFrames ≤ older.length * v.coding.fpb →
        w = { v with state := .sealing, frames := older.length * v.coding.fpb, blocks := older.length,
                     tail := a, cut := true } →
        (v.state = .sealing → ∃ u : State, s.cutAt u n b r older younger ∧ u.ports = s.ports ∧
          u.recording r = some w ∧
          exec (.writeCompletion n .failed) s = .next ((u.sealTest r).cutReported n b r) ∧
          ((∃ c ∈ older, ∃ m, (s.cache.line m).tag = some c ∧ (s.cache.line m).state = .modified) →
            u.sealTest r = u) ∧
          ((∀ c ∈ older, ∀ m, (s.cache.line m).tag = some c → (s.cache.line m).state ≠ .modified) →
            (∀ c, s.dir.ownerOf c = some r → c ∈ s.dir.chainOf v) →
            u.sealTest r = u.sealNow r w)) ∧
        (v.state = .opened → (s.port p).detector.talkSeen = true →
          ∃ u : State, s.cutAt u n b r older younger ∧ u.recording r = some { w with trimmed := 0 } ∧
            u.port p = { (s.port p).settled with
              state := .closing, capture := []
              op := some { o with phase := .closing, endReason := some .pool } } ∧
            (∀ q, q ≠ p → u.port q = s.port q) ∧
            (∀ c ∈ older, ∀ m, s.cache.lineOf c = some m → (s.cache.line m).state = .modified →
              (∀ q, q ≠ p → s.cache.pins.find q ≠ some m) → m ∈ u.cache.writeQueue) ∧
            exec (.writeCompletion n .failed) s = .next ((u.sealTest r).cutReported n b r) ∧
            ((∃ c ∈ older, ∃ m, (s.cache.line m).tag = some c ∧
                (s.cache.line m).state = .modified) → u.sealTest r = u) ∧
            ((∀ c ∈ older, ∀ m, (s.cache.line m).tag = some c → (s.cache.line m).state ≠ .modified) →
              (∀ c, s.dir.ownerOf c = some r → c ∈ s.dir.chainOf v) →
              u.sealTest r = u.sealNow r { w with trimmed := 0 }))) ∧
    ∀ (p outcome : Nat) (o : OpRecord) (why : Option EndReason) (q : Port),
      s.dir.pool.take = none → (∀ m, m ≠ n → (s.cache.line m).state ≠ .writing) →
      s.portFilling r = some p → (s.port p).op = some o → o.recording = some r →
      v.references = 1 → (s.port p).playHolds = [] →
      (v.state = .sealing ∧ older.length * v.coding.fpb < Config.minFrames ∧ outcome = 6 ∧
          why = o.endReason ∧ q = s.port p ∨
        v.state = .opened ∧ why = some .pool ∧ q = (s.port p).settled ∧
          ((s.port p).detector.talkSeen = false ∧ outcome = 5 ∨
            (s.port p).detector.talkSeen = true ∧
              older.length * v.coding.fpb < Config.minFrames ∧ outcome = 6)) →
      ∃ (u : State) (m : Link), exec (.writeCompletion n .failed) s = .next (u.cutReported n b r) ∧
        u.dir.block b = some .retired ∧
        (∀ a, a ∈ older ∨ a ∈ younger → u.dir.block a = none) ∧
        u.dir.pool.blocks = younger ++ older ∧
        (∀ c, c ≠ b → c ∉ older → c ∉ younger → u.dir.block c = s.dir.block c) ∧
        u.recording r = none ∧ (∀ a, a ≠ r → u.recording a = s.recording a) ∧
        s.settledFor u o ∧
        { u.dir with blocks := s.dir.blocks, recordings := s.dir.recordings, pool := s.dir.pool,
                     poolLevel := s.dir.poolLevel, boxes := s.dir.boxes } = s.dir ∧
        u.cache.line n = Line.invalid ∧
        (∀ c, c ≠ n → (∀ a, a ∈ older ∨ a ∈ younger → (s.cache.line c).tag ≠ some a) →
          u.cache.line c = s.cache.line c) ∧
        u.cache.waitQueue = [] ∧ u.cache.writeErrors = sat16 s.cache.writeErrors ∧
        u.port p = q.rested ∧ (∀ a, a ≠ p → u.port a = s.port a) ∧
        s.poolNotices u m ∧
        u.link = m.raise .portDone (o.doneWithout p outcome why (s.port p).underflowCount) ∧
        { u with dir := s.dir, cache := s.cache, ports := s.ports, lamps := s.lamps,
                 lampQueue := s.lampQueue, line := s.line, link := s.link } = s

/-- R31, R32, R35, R148: a fill that succeeds makes its line CLEAN with the block's contents, and a
PLAYING port that has the block as a lookahead block and waits for its frame copies. A fill that fails,
or is 50 ms old, makes its line ERROR, the counters rise and STORAGE_FAULT is raised. A line marked
drop-on-completion becomes INVALID whatever the fill did. That STORAGE_FAULT names the block's owner as it
stands then is the model's choice (assumption 65). A completion without its operation in flight,
or one that comes late, changes nothing, which is the model's reading (assumption 21). -/
def Obligations.FillEndsCleanOrError : Prop :=
  ∀ (s : State) (n b : Nat) (y : List Byte),
    (s.running = true → s.cache.inFlight = some ⟨false, n, b⟩ → s.cache.quiet →
      s.cache.line n = ⟨.filling, some b, false, y⟩ → (∀ p, (s.port p).state ≠ .playing) →
      exec (.fillCompletion n .succeeded) s =
          .next { s with cache := { s.cache with
            lines := s.cache.lines.write Line.invalid n
              ⟨.clean, some b, false, s.flash.read unwrittenPayload b⟩
            inFlight := none } } ∧
        exec (.fillCompletion n .failed) s =
          .next (State.raise
            { s with cache := { s.cache with
              lines := s.cache.lines.write Line.invalid n ⟨.error, some b, false, y⟩
              inFlight := none
              readErrors := sat16 s.cache.readErrors } } .storageFault
            ([bf false, bf false, b4 b, b2 n] ++ bOpt (fun r => [b2 r]) (s.dir.ownerOf b) ++ [b1 0])) ∧
        exec .flashOperationTimeout s =
          .next (State.raise
            { s with cache := { s.cache with
              lines := s.cache.lines.write Line.invalid n ⟨.error, some b, false, y⟩
              inFlight := none
              readErrors := sat16 s.cache.readErrors
              flashTimeouts := sat16 s.cache.flashTimeouts } } .storageFault
            ([bf false, bf true, b4 b, b2 n] ++ bOpt (fun r => [b2 r]) (s.dir.ownerOf b) ++ [b1 0]))) ∧
    (s.running = true → s.cache.inFlight = some ⟨false, n, b⟩ → s.cache.quiet →
      s.cache.line n = ⟨.filling, none, true, y⟩ → (∀ p, (s.port p).state ≠ .playing) →
      exec (.fillCompletion n .succeeded) s =
          .next { s with cache := { s.cache with
            lines := s.cache.lines.write Line.invalid n Line.invalid, inFlight := none } } ∧
        exec (.fillCompletion n .failed) s =
          .next (State.raise
            { s with cache := { s.cache with
              lines := s.cache.lines.write Line.invalid n Line.invalid
              inFlight := none
              readErrors := sat16 s.cache.readErrors } } .storageFault
            ([bf false, bf false, b4 b, b2 n] ++ bOpt (fun r => [b2 r]) (s.dir.ownerOf b) ++
              [b1 1]))) ∧
    (∀ p k f r l g rest, s.running = true → s.cache.inFlight = some ⟨false, n, b⟩ → s.cache.quiet →
      s.cache.line n = ⟨.filling, some b, false, y⟩ → s.cache.lineOf b = some n →
      p < Config.numPorts → (s.port p).state = .playing → (s.port p).lookahead.contains b = true →
      (∀ q, q ≠ p → (s.port q).state = .playing → (s.port q).lookahead.contains b = false) →
      (s.port p).level = some l → (s.port p).next = some (k, f) → l.from k = g :: rest →
      g.recording = some r → s.blockOf r f = some b →
      (s.port p).playout.length < s.dir.settings.depth p →
      ∃ (t : State) (more : List QueuedFrame), exec (.fillCompletion n .succeeded) s = .next t ∧
        (t.port p).playout = (s.port p).playout ++
          ⟨k, f, (s.recCoding r).decode (payloadFrame (s.flash.read unwrittenPayload b)
            (f % (s.recCoding r).fpb) (s.recCoding r).frameBytes)⟩ :: more ∧
        (t.port p).playout.length ≤ s.dir.settings.depth p ∧
        (∀ q, q ≠ p → t.port q = s.port q) ∧
        { t with cache := s.cache, ports := s.ports } = s) ∧
    (s.cache.inFlight = none →
      (∀ ending, exec (.fillCompletion n ending) s = .next s) ∧
        exec .flashOperationTimeout s = .next s) ∧
    exec (.fillCompletion n .late) s = .next s

/-- R29, R30, R31: the free scheduler takes a write-back first while 1,536 lines or more are MODIFIED or
WRITING, and otherwise an urgent fill, then a write-back, then a fill, each from its queue's head. -/
def Obligations.SchedulerChoosesByPressure : Prop :=
  ∀ (c : Cache) (n : Nat) (rest : List Nat), c.inFlight = none →
    (1536 ≤ c.unwritten → c.writeQueue = n :: rest →
      c.schedule.inFlight = some ⟨true, n, (c.line n).tag.getD 0⟩ ∧ c.schedule.writeQueue = rest ∧
        (c.schedule.line n).state = .writing ∧ c.schedule.urgentQueue = c.urgentQueue ∧
        c.schedule.fillQueue = c.fillQueue) ∧
    ((c.unwritten < 1536 ∨ c.writeQueue = []) → c.urgentQueue = n :: rest →
      c.schedule = { c with
        urgentQueue := rest, inFlight := some ⟨false, n, (c.line n).tag.getD 0⟩ }) ∧
    (c.urgentQueue = [] → c.writeQueue = n :: rest →
      c.schedule.inFlight = some ⟨true, n, (c.line n).tag.getD 0⟩ ∧ c.schedule.writeQueue = rest) ∧
    (c.urgentQueue = [] → c.writeQueue = [] → c.fillQueue = n :: rest →
      c.schedule = { c with
        fillQueue := rest, inFlight := some ⟨false, n, (c.line n).tag.getD 0⟩ })

/-- R20, R21, R22, R23, R24, R26, R27, R28: an allocation takes the lowest-numbered INVALID line with
no pins; where there is none, the CLEAN or ERROR line with no pins that was used longest ago; and it
fails only where there is neither. What a TOUCH, an ESTABLISH, a DISCARD, a FLUSH, an unpin and a retry
of the wait queue then do, and what they answer. Where a line joins a queue of the scheduler, an
operation is in flight, so that the scheduler does not choose at once; its choice is stated apart. -/
def Obligations.AllocationTakesLowestOrOldest : Prop :=
  (∀ (c : Cache) (n : Nat), c.allocatable = some n →
    ((c.line n).state = .invalid ∧ c.pinCount n = 0 ∧ n < Config.numLines ∧
      ∀ m, m < n → (c.line m).state ≠ .invalid ∨ c.pinCount m ≠ 0) ∨
    ((∀ m, m < Config.numLines → (c.line m).state ≠ .invalid ∨ c.pinCount m ≠ 0) ∧
      ((c.line n).state = .clean ∨ (c.line n).state = .error) ∧ c.pinCount n = 0 ∧
      ∃ older younger, c.recency = older ++ n :: younger ∧
        ∀ m ∈ older, ((c.line m).state ≠ .clean ∧ (c.line m).state ≠ .error) ∨ c.pinCount m ≠ 0)) ∧
  (∀ c : Cache, c.allocatable = none ↔
    (∀ m, m < Config.numLines → (c.line m).state ≠ .invalid ∨ c.pinCount m ≠ 0) ∧
      ∀ m ∈ c.recency, ((c.line m).state ≠ .clean ∧ (c.line m).state ≠ .error) ∨ c.pinCount m ≠ 0) ∧
  (∀ (c : Cache) (b p : Nat) (u : Bool),
    (∀ n, c.lineOf b = some n → (c.line n).state ≠ .error →
      c.touch b u p = ({ c with recency := c.recency.erase n ++ [n] }, .present (c.line n).state)) ∧
    (∀ n op, c.inFlight = some op → c.lineOf b = some n → (c.line n).state = .error →
      c.touch b u p = ({ c with
        recency := c.recency.erase n ++ [n]
        lines := c.lines.write Line.invalid n { c.line n with state := .filling }
        urgentQueue := if u then c.urgentQueue ++ [n] else c.urgentQueue
        fillQueue := if u then c.fillQueue else c.fillQueue ++ [n] }, .fillQueued)) ∧
    (∀ before e after, c.lineOf b = none → c.waitQueue = before ++ e :: after → e.block = b →
      (∀ x ∈ before ++ after, x.block ≠ b) →
      (∀ v, e.kind = .touch v → c.touch b u p = ({ c with
        waitQueue := before ++ { e with kind := .touch (v || u) } :: after }, .waiting)) ∧
      ∀ k, e.kind = .establish k → c.touch b u p = (c, .waiting)) ∧
    (∀ op, c.inFlight = some op → c.lineOf b = none → (∀ e ∈ c.waitQueue, e.block ≠ b) →
      (∀ n, c.allocatable = some n → c.touch b u p = ({ c with
        recency := c.recency.erase n ++ [n]
        lines := c.lines.write Line.invalid n ⟨.filling, some b, false, []⟩
        urgentQueue := if u then c.urgentQueue ++ [n] else c.urgentQueue
        fillQueue := if u then c.fillQueue else c.fillQueue ++ [n] }, .fillQueued)) ∧
      (c.allocatable = none → ∃ q, c.promotes q ∧
        (c.waitQueue.length < 64 → c.touch b u p = ({ c with
          writeQueue := q, waitQueue := c.waitQueue ++ [⟨.touch u, b, p⟩] }, .waiting)) ∧
        (64 ≤ c.waitQueue.length → c.touch b u p = ({ c with
          writeQueue := q, droppedRequests := sat16 c.droppedRequests }, .dropped))))) ∧
  (∀ (c : Cache) (b p : Nat) (k : Coding),
    (∀ n, c.allocatable = some n → c.establish b k p = ({ c with
      recency := c.recency.erase n ++ [n]
      lines := c.lines.write Line.invalid n ⟨.modified, some b, false, k.silentPayload⟩
      pins := c.pins.put p n }, .established)) ∧
    (∀ op, c.inFlight = some op → c.allocatable = none → ∃ q, c.promotes q ∧
      (c.waitQueue.length < 64 → c.establish b k p = ({ c with
        writeQueue := q, waitQueue := c.waitQueue ++ [⟨.establish k, b, p⟩] }, .waiting)) ∧
      (64 ≤ c.waitQueue.length → c.establish b k p = ({ c with
        writeQueue := q, droppedRequests := sat16 c.droppedRequests }, .refused)))) ∧
  (∀ (c : Cache) (b : Nat),
    (c.lineOf b = none → c.discard b =
      ({ c with waitQueue := c.waitQueue.filter (fun e => e.block != b) }, false)) ∧
    (∀ n, c.lineOf b = some n →
      ((c.line n).state = .writing → c.discard b = ({ c with
        waitQueue := c.waitQueue.filter (fun e => e.block != b)
        pins := ⟨c.pins.rows.filter (fun x => x.2 != n)⟩
        lines := c.lines.write Line.invalid n { c.line n with drop := true } }, true)) ∧
      (∀ x, (c.line n).state = .filling → c.inFlight = some ⟨false, n, x⟩ → c.discard b = ({ c with
        waitQueue := c.waitQueue.filter (fun e => e.block != b)
        pins := ⟨c.pins.rows.filter (fun x => x.2 != n)⟩
        lines := c.lines.write Line.invalid n { c.line n with drop := true, tag := none } },
        false)) ∧
      ((c.line n).state ≠ .writing →
        ((c.line n).state ≠ .filling ∨ ∀ x, c.inFlight ≠ some ⟨false, n, x⟩) →
        c.discard b = (Cache.retry { c with
          waitQueue := c.waitQueue.filter (fun e => e.block != b)
          pins := ⟨c.pins.rows.filter (fun x => x.2 != n)⟩
          urgentQueue := c.urgentQueue.erase n
          writeQueue := c.writeQueue.erase n
          fillQueue := c.fillQueue.erase n
          lines := c.lines.write Line.invalid n Line.invalid }, false)))) ∧
  (∀ (c : Cache) (b : Nat),
    (∀ n op, c.inFlight = some op → c.lineOf b = some n → (c.line n).state = .modified →
      c.pinCount n = 0 → c.flush b = { c with
        writeQueue := if n ∈ c.writeQueue then c.writeQueue else c.writeQueue ++ [n] }) ∧
    ((∀ n, c.lineOf b = some n → (c.line n).state ≠ .modified ∨ c.pinCount n ≠ 0) →
      c.flush b = c)) ∧
  (∀ (c : Cache) (p : Nat),
    (c.pins.find p = none → c.unpin p = c) ∧
    (∀ n, c.pins.find p = some n →
      (((c.line n).state = .invalid ∨ (c.line n).state = .clean ∨ (c.line n).state = .error) →
        Cache.pinCount { c with pins := c.pins.drop p } n = 0 →
        c.unpin p = Cache.retry { c with pins := c.pins.drop p }) ∧
      ((((c.line n).state ≠ .invalid ∧ (c.line n).state ≠ .clean ∧ (c.line n).state ≠ .error) ∨
          Cache.pinCount { c with pins := c.pins.drop p } n ≠ 0) →
        c.unpin p = { c with pins := c.pins.drop p }))) ∧
  ∀ (c : Cache) (op : FlashOp), c.inFlight = some op →
    (c.waitQueue = [] → c.retry = c) ∧
    ∀ e rest, c.waitQueue = e :: rest →
      (c.allocatable = none → ∃ q, c.promotes q ∧ c.retry = { c with writeQueue := q }) ∧
      ∀ n, c.allocatable = some n →
        (∀ u, e.kind = .touch u → c.retry = Cache.retry { c with
          waitQueue := rest
          recency := c.recency.erase n ++ [n]
          lines := c.lines.write Line.invalid n ⟨.filling, some e.block, false, []⟩
          urgentQueue := if u then c.urgentQueue ++ [n] else c.urgentQueue
          fillQueue := if u then c.fillQueue else c.fillQueue ++ [n] }) ∧
        ∀ k, e.kind = .establish k → c.retry = Cache.retry { c with
          waitQueue := rest
          recency := c.recency.erase n ++ [n]
          lines := c.lines.write Line.invalid n ⟨.modified, some e.block, false, k.silentPayload⟩
          pins := c.pins.put e.port n }

/-- R15, R36, R142: BLOCK QUERY, CACHE QUERY and RECORDING INFO answer with the fields of their rules as
they stand and change nothing; a number outside its range is refused with RANGE, and a recording that
is not SEALED with NO_RECORDING (R4). The limit of a recording, at most 30,000 frames, travels in 2
bytes (R65, R67, R185). The forms of optional fields are the model's reading (assumption 19). -/
def Obligations.StoreQueriesReport : Prop :=
  ∀ (s : State) (tag : Nat), s.ready →
    (∀ b, b < Config.numBlocks →
      exec (.blockQuery tag b) s = .next (s.answered 0x05 tag
        (b1 (blockStatusCode (s.dir.block b)) :: bOpt (fun r => [b2 r]) (s.dir.ownerOf b) ++
          nextFields (s.dir.block b) ++ bOpt (fun n => [b2 n]) (s.cache.lineOf b)))) ∧
    (∀ b, Config.numBlocks ≤ b →
      exec (.blockQuery tag b) s = .next (s.refusedWith 0x05 tag .range 0)) ∧
    (∀ n, n < Config.numLines →
      exec (.cacheQuery tag n) s = .next (s.answered 0x06 tag
        (b1 (s.cache.line n).state.code :: bOpt (fun b => [b4 b]) (s.cache.line n).tag ++
          [b1 (s.cache.pinCount n), bf (s.cache.line n).drop, b1 (s.cache.queuedCode n)] ++
          bOpt (fun r => [b2 r]) ((s.cache.line n).tag.bind s.dir.ownerOf)))) ∧
    (∀ n, Config.numLines ≤ n →
      exec (.cacheQuery tag n) s = .next (s.refusedWith 0x06 tag .range 0)) ∧
    (∀ r v, r < Config.numRecordings → s.recording r = some v → v.state = .sealed →
      exec (.recordingInfo tag r) s = .next (s.answered 0x07 tag
        ([b1 v.coding.code, b4 v.frames, b2 (secondsOf v.frames), b4 v.blocks, b4 v.head, b4 v.tail,
            b2 v.references, b2 v.limit, b4 v.trimmed, b1 v.peakClass] ++ bOpt bClock v.created ++
          bOpt bExt v.origin ++ [bf v.cut]))) ∧
    (∀ r, r < Config.numRecordings → (∀ v, s.recording r = some v → v.state ≠ .sealed) →
      exec (.recordingInfo tag r) s = .next (s.refusedWith 0x07 tag .noRecording 0)) ∧
    ∀ r, Config.numRecordings ≤ r →
      exec (.recordingInfo tag r) s = .next (s.refusedWith 0x07 tag .range 0)

/-- R10, R11, R14, R55: PROMPT CLEAR and GREETING CLEAR empty the slot and release its recording's
reference: a count above 1 falls by 1, and a count of 1 frees the recording. An empty slot is accepted
and nothing is released. A slot number of 512 or more is refused with RANGE. -/
def Obligations.ClearingReleasesRecording : Prop :=
  ∀ (s : State) (tag : Nat), s.ready →
    (∀ n, n < Config.numPrompts → s.dir.prompts.find n = none →
      exec (.promptClear tag n) s = .next (State.answered
        { s with dir := { s.dir with prompts := s.dir.prompts.drop n } } 0x08 tag [])) ∧
    (∀ n r v, n < Config.numPrompts → s.dir.prompts.find n = some r → s.recording r = some v →
      (1 < v.references → exec (.promptClear tag n) s = .next (State.answered
        { s with dir := { s.dir with
          prompts := s.dir.prompts.drop n
          recordings := s.dir.recordings.put r { v with references := v.references - 1 } } }
        0x08 tag [])) ∧
      (v.references = 1 → ∃ t : State, exec (.promptClear tag n) s = .next (t.answered 0x08 tag []) ∧
        t.dir.prompts = s.dir.prompts.drop n ∧ t.recording r = none ∧
        (∀ q, q ≠ r → t.recording q = s.recording q) ∧
        s.poolNotices t t.link ∧
        { t.dir with prompts := s.dir.prompts, recordings := s.dir.recordings,
                     blocks := s.dir.blocks, pool := s.dir.pool,
                     poolLevel := s.dir.poolLevel } = s.dir ∧
        { t with dir := s.dir, cache := s.cache, link := s.link } = s)) ∧
    (∀ n, Config.numPrompts ≤ n →
      exec (.promptClear tag n) s = .next (s.refusedWith 0x08 tag .range 0)) ∧
    (∀ (box : BoxRef) (b code : Nat) (g : GreetingSlot), s.dir.resolve box = .ok b →
      greetingSlotOf code = some g →
      ((s.box b).greeting g = none → exec (.greetingClear tag box code) s = .next (State.answered
        (s.setBox b ((s.box b).setGreeting g none)) 0x1A tag [])) ∧
      ∀ r v, (s.box b).greeting g = some r → s.recording r = some v →
        (1 < v.references → exec (.greetingClear tag box code) s = .next (State.answered
          ((s.setBox b ((s.box b).setGreeting g none)).setRecording r
            { v with references := v.references - 1 }) 0x1A tag [])) ∧
        (v.references = 1 → ∃ t : State, exec (.greetingClear tag box code) s =
            .next (t.answered 0x1A tag []) ∧
          t.box b = (s.box b).setGreeting g none ∧ (∀ c, c ≠ b → t.box c = s.box c) ∧
          t.recording r = none ∧ (∀ q, q ≠ r → t.recording q = s.recording q) ∧
          s.poolNotices t t.link ∧
          { t.dir with boxes := s.dir.boxes, recordings := s.dir.recordings,
                       blocks := s.dir.blocks, pool := s.dir.pool,
                       poolLevel := s.dir.poolLevel } = s.dir ∧
          { t with dir := s.dir, cache := s.cache, link := s.link } = s))

/-! ## Boxes, messages and accounting -/

/-- R39, R40: a request names a box by an index, RANGE from 16,384 on and NO_BOX where it is UNASSIGNED,
or by an extension, RANGE where it is not 3 to 6 decimal digits and NO_BOX where no assigned box has it.
BOX ASSIGN gives the lowest-numbered UNASSIGNED box its class, state and extension and leaves all else as
it was; with no box left it is refused with FULL, an extension in use with EXISTS, and a bad one with
RANGE. -/
def Obligations.BoxAssignTakesLowest : Prop :=
  (∀ (d : Directory) (n : Nat) (e : List Nat), d.canonical →
    (Config.numBoxes ≤ n → d.resolve (.index n) = .error (.range, 0)) ∧
    (n < Config.numBoxes →
      ((d.box n).state = .unassigned → d.resolve (.index n) = .error (.noBox, 0)) ∧
      ((d.box n).state ≠ .unassigned → d.resolve (.index n) = .ok n)) ∧
    (e.length < 3 ∨ 6 < e.length ∨ (∃ c ∈ e, c < 0x30 ∨ 0x39 < c) →
      d.resolve (.ext e) = .error (.range, 0)) ∧
    (3 ≤ e.length → e.length ≤ 6 → (∀ c ∈ e, 0x30 ≤ c ∧ c ≤ 0x39) →
      ((∀ b, (d.box b).ext = e → (d.box b).state = .unassigned) →
        d.resolve (.ext e) = .error (.noBox, 0)) ∧
      ∀ b, (d.box b).ext = e → (d.box b).state ≠ .unassigned →
        (∀ a, (d.box a).ext = e → (d.box a).state ≠ .unassigned → a = b) →
        d.resolve (.ext e) = .ok b)) ∧
  ∀ (s : State) (tag : Nat) (ext : List Nat) (cls st : Nat) (c : BoxClass) (g : BoxState), s.ready →
    boxClassOf cls = some c → boxStateOf st = some g → g ≠ .unassigned →
    (∀ b, extValid ext = true → s.dir.boxOfExt ext = none → b < Config.numBoxes →
      (s.box b).state = .unassigned → (∀ a, a < b → (s.box a).state ≠ .unassigned) →
      exec (.boxAssign tag ext cls st) s = .next (State.answered
        (s.setBox b { Box.unassigned with state := g, ext := ext, cls := c }) 0x10 tag [b2 b])) ∧
    (∀ a, extValid ext = true → s.dir.boxOfExt ext = some a →
      exec (.boxAssign tag ext cls st) s = .next (s.refusedWith 0x10 tag .exists_ 0)) ∧
    (extValid ext = true → s.dir.boxOfExt ext = none →
      (∀ b, b < Config.numBoxes → (s.box b).state ≠ .unassigned) →
      exec (.boxAssign tag ext cls st) s = .next (s.refusedWith 0x10 tag .full 0)) ∧
    (extValid ext = false →
      exec (.boxAssign tag ext cls st) s = .next (s.refusedWith 0x10 tag .range 0))

/-- R41, R56, R68: BOX SET changes a box's class, state and extension where they are given, and no more
than its lamp beside; ABSENCE SET sets or clears the box's absence; TRIM SET clamps and takes the two
trim settings. -/
def Obligations.BoxSettingsChangeBoxAlone : Prop :=
  ∀ (s : State) (tag : Nat), s.ready →
    (∀ (box : BoxRef) (b : Nat) (cls st : Option Nat) (ext : Option (List Nat)) (c : BoxClass)
        (g : BoxState) (e : List Nat), s.dir.resolve box = .ok b →
      (cls = none ∧ c = (s.box b).cls ∨ ∃ n, cls = some n ∧ boxClassOf n = some c) →
      (st = none ∧ g = (s.box b).state ∨
        ∃ n, st = some n ∧ boxStateOf n = some g ∧ g ≠ .unassigned) →
      (ext = none ∧ e = (s.box b).ext ∨
        ext = some e ∧ extValid e = true ∧ ∀ a, s.dir.boxOfExt e = some a → a = b) →
      ∃ t : State, exec (.boxSet tag box cls st ext) s =
          .next (t.answered 0x11 tag ([b1 c.code, b1 g.code] ++ bExt e)) ∧
        t.dir = (s.setBox b { s.box b with cls := c, state := g, ext := e }).dir ∧
        (c = (s.box b).cls → { t with dir := s.dir } = s) ∧
        { t with dir := s.dir, lamps := s.lamps, lampQueue := s.lampQueue, line := s.line } = s) ∧
    (∀ (box : BoxRef) (b : Nat) (u : Option Nat), s.dir.resolve box = .ok b →
      (∀ n : Bool, exec (.absenceSet tag box 1 u (if n then 1 else 0)) s = .next (State.answered
        (s.setBox b { s.box b with absent := true, untilDay := u, noDeposit := n }) 0x1B tag
        (b1 1 :: bOpt (fun d => [b2 d]) u ++ [bf n]))) ∧
      ∀ n : Bool, exec (.absenceSet tag box 0 u (if n then 1 else 0)) s = .next (State.answered
        (s.setBox b { s.box b with absent := false, untilDay := none, noDeposit := false }) 0x1B tag
        [b1 0, b1 0, b1 0])) ∧
    ∀ guard cap, exec (.trimSet tag guard cap) s = .next (State.answered
      { s with dir := { s.dir with settings := { s.dir.settings with
        trimGuard := min 50 guard, trimCap := min 1000 cap } } } 0x1C tag
      [b1 (min 50 guard), b2 (min 1000 cap)])

/-- R39, R42: BOX CLEAR of a box with no deposit pending and no greeting being recorded removes its entries,
takes it out of every list, unmaps its lamp and leaves it UNASSIGNED; a box with a deposit pending is
refused with BUSY, and so is a box with a greeting being recorded. A box that does not resolve is refused
as R39 gives. Another box changes only where an entry of the cleared list names it. The reply's count of
lists, which no rule bounds, travels in 4 bytes (R185), that of the entries removed in 1, which is the model's
reading (assumption 19). -/
def Obligations.BoxClearEmptiesBox : Prop :=
  ∀ (s : State) (tag : Nat) (box : BoxRef) (b : Nat), s.ready → s.canonical →
    (∀ r d, s.dir.resolve box = .error (r, d) →
      exec (.boxClear tag box) s = .next (s.refusedWith 0x12 tag r d)) ∧
    (s.dir.resolve box = .ok b →
    ((s.box b).pendingDeposits = 0 →
      (∀ r v g, s.recording r = some v → v.purpose = .greeting b g → v.state = .sealed) →
      ∃ t : State, exec (.boxClear tag box) s = .next (t.answered 0x12 tag
          [b1 (s.box b).messages.length, b4 (s.listsHolding b).length]) ∧
        t.box b = Box.unassigned ∧
        (∀ e ∈ (s.box b).messages, t.entry e = none) ∧
        (∀ e, e ∉ (s.box b).messages → t.entry e = s.entry e) ∧
        (∀ l ms, s.members l = some ms → t.members l = some (ms.erase b)) ∧
        (t.lamp b).station = none ∧ (t.lamp b).source = .new ∧ s.poolNotices t t.link ∧
        (∀ c, c ≠ b →
          (∀ e ∈ (s.box b).messages, ∀ v, s.entry e = some v → v.box ≠ c) → t.box c = s.box c) ∧
        { t.dir with
          blocks := s.dir.blocks, pool := s.dir.pool, poolLevel := s.dir.poolLevel,
          recordings := s.dir.recordings, boxes := s.dir.boxes, entries := s.dir.entries,
          lists := s.dir.lists } = s.dir ∧
        { t with dir := s.dir, cache := s.cache, jobs := s.jobs, lamps := s.lamps,
                 lampQueue := s.lampQueue, line := s.line, link := s.link } = s) ∧
    ((s.box b).pendingDeposits ≠ 0 ∨
        (∃ r v g, s.recording r = some v ∧ v.purpose = .greeting b g ∧ v.state ≠ .sealed) →
      exec (.boxClear tag box) s = .next (s.refusedWith 0x12 tag .busy 0)))

/-- R43, R44, R51, R57, R63: BOX INFO, LIST, PROFILE READ and LIST INFO answer with the fields of their
rules as they stand. BOX INFO clears the refusal counter where it is asked to; nothing else changes.
A greeting and an entry of LIST are given field by field. The forms of optional fields, the sender of a
BROADCAST entry and the width of the counts of entries are the model's reading (assumption 19). -/
def Obligations.BoxReadsReport : Prop :=
  ∀ (s : State) (tag : Nat), s.ready →
    (∀ (box : BoxRef) (b : Nat) (clear : Bool), s.dir.resolve box = .ok b →
      exec (.boxInfo tag box (if clear then 1 else 0)) s = .next (State.answered
        (if clear then s.setBox b { s.box b with refusals := 0 } else s) 0x13 tag
        (b1 (s.box b).state.code :: bExt (s.box b).ext ++
          [b1 (s.box b).cls.code, b1 (s.box b).messages.length, b1 (s.box b).newCount,
            b1 (s.box b).urgentNew, b1 (s.countIn (s.box b) .heard),
            b1 (s.countIn (s.box b) .kept)] ++
          s.greetingFields (s.box b) .standard ++ s.greetingFields (s.box b) .busy ++
          s.greetingFields (s.box b) .absence ++ s.greetingFields (s.box b) .name ++
          bf (s.box b).absent :: bOpt (fun u => [b2 u]) (s.box b).untilDay ++
          [bf (s.box b).noDeposit, b4 (s.box b).charged, b4 (s.box b).reserved,
            b4 ((s.dir.profiles.of (s.box b).cls).quota * 50),
            bSigned ((((s.dir.profiles.of (s.box b).cls).quota * 50 : Nat) : Int) -
              (s.box b).charged - (s.box b).reserved),
            b1 (s.box b).pendingDeposits, b2 (s.box b).refusals]))) ∧
    (∀ (box : BoxRef) (b : Nat), s.dir.resolve box = .ok b →
      exec (.list tag box) s = .next (s.answered 0x16 tag
        (bSeq ((s.box b).messages.zipIdx.map fun e => s.entryFields (e.2 + 1) e.1) ++
          [b1 (s.box b).messages.length, b1 (s.box b).newCount, b1 (s.box b).urgentNew]))) ∧
    (∀ code c, boxClassOf code = some c →
      exec (.profileRead tag code) s = .next (s.answered 0x14 tag (s.dir.profiles.of c).fields)) ∧
    (∀ p : Profile, p.fields = [b1 p.maxMessages, b2 p.quota, b2 p.maxMessage, b2 p.retainNew,
      b2 p.retainHeard, b2 p.retainKept, b1 p.coding.code, bf p.urgentAllowed]) ∧
    (∀ (x : Box) (g : GreetingSlot),
      (x.greeting g = none → s.greetingFields x g = [b1 0]) ∧
      ∀ r w, x.greeting g = some r → s.recording r = some w →
        s.greetingFields x g = [b1 1, b2 r, b2 ((w.frames + 49) / 50)]) ∧
    (∀ pos e v w, s.entry e = some v → s.recording v.recording = some w →
      s.entryFields pos e =
        [b1 pos, b1 (match v.state with | .new => 0 | .heard => 1 | .kept => 2), bf v.urgent,
          b1 (match v.source with
            | .caller => 0 | .recorded => 1 | .forwarded => 2 | .broadcast => 3),
          b2 ((w.frames + 49) / 50)] ++
        (match v.deposited with | none => [b1 0] | some c => [b1 1, b2 c.day, b2 c.minute]) ++
        (if v.source = .broadcast then
          (match v.job with | none => [b1 0] | some j => [b1 1, b1 j])
        else (match v.sender with | none => [b1 0] | some x => b1 1 :: bExt x)) ++
        [b2 v.recording]) ∧
    ∀ l start count ms, l < Config.numLists → 1 ≤ start → s.members l = some ms →
      exec (.listInfo tag l start count) s = .next (s.answered 0x21 tag
        ([b1 0, b2 ms.length, b4 s.dir.freePlaces, bf (s.listInJob l),
            b2 ((ms.drop (start - 1)).take (clampTo 1 256 count)).length] ++
          ((ms.drop (start - 1)).take (clampTo 1 256 count)).map b2))

/-- R44, R161: PROFILE SET clamps its numbers and replaces the profile of its class; only lamps follow
from it. A class, coding or flag code outside its list is refused with RANGE. -/
def Obligations.ProfileSetClamps : Prop :=
  ∀ (s : State) (tag code : Nat) (f : ProfileSpec), s.ready →
    (∀ c k u, boxClassOf code = some c → codingOf f.coding = some k →
      flagOf f.urgentAllowed = some u →
      ∃ (p : Profile) (t : State),
        p = { maxMessages := max 1 (min 48 f.maxMessages), quota := max 60 (min 7200 f.quota),
              maxMessage := max 10 (min 600 f.maxMessage), retainNew := min 365 f.retainNew,
              retainHeard := min 365 f.retainHeard, retainKept := min 365 f.retainKept,
              coding := k, urgentAllowed := u } ∧
        exec (.profileSet tag code f) s = .next (t.answered 0x15 tag
          [b1 p.maxMessages, b2 p.quota, b2 p.maxMessage, b2 p.retainNew, b2 p.retainHeard,
            b2 p.retainKept, b1 k.code, bf u]) ∧
        t.dir = { s.dir with profiles := s.dir.profiles.set c p } ∧
        { t with dir := s.dir, lamps := s.lamps, lampQueue := s.lampQueue, line := s.line } = s) ∧
    (boxClassOf code = none ∨ codingOf f.coding = none ∨ flagOf f.urgentAllowed = none →
      exec (.profileSet tag code f) s = .next (s.refusedWith 0x15 tag .range 0))

/-- R39, R45, R47, R50, R52, R161: MARK gives a message its state and its state day, moves it to the end
of its new band, behind the last entry of this or an earlier band with the others in their order (urgent
NEW, NEW, HEARD, KEPT), and the box's counts of new messages follow; a message already in that state is left
alone. A state code outside its list is refused with RANGE, a box as R39 gives, a position of 0 or above
48 with RANGE, and one beyond the list with NO_ENTRY. -/
def Obligations.MarkMovesEntry : Prop :=
  (∀ v : Entry, v.band = match v.state, v.urgent with
    | .new, true => 0
    | .new, false => 1
    | .heard, _ => 2
    | .kept, _ => 3) ∧
  (∀ (d : Directory) (e : Nat) (v : Entry), d.entries.find e = some v → d.bandOf e = v.band) ∧
  ∀ (s : State) (tag : Nat) (box : BoxRef) (b pos code : Nat) (st : MsgState), s.ready →
    (msgStateOf code = none → exec (.mark tag box pos code) s =
      .next (s.refusedWith 0x17 tag .range 0)) ∧
    (msgStateOf code = some st → ∀ r d, s.dir.resolve box = .error (r, d) →
      exec (.mark tag box pos code) s = .next (s.refusedWith 0x17 tag r d)) ∧
    (msgStateOf code = some st → s.dir.resolve box = .ok b →
      (pos = 0 ∨ 48 < pos → exec (.mark tag box pos code) s =
        .next (s.refusedWith 0x17 tag .range 0)) ∧
      (1 ≤ pos → pos ≤ 48 → (s.box b).messages.length < pos →
        exec (.mark tag box pos code) s = .next (s.refusedWith 0x17 tag .noEntry 0))) ∧
    ∀ (e : Nat) (v : Entry), s.dir.resolve box = .ok b → 1 ≤ pos → pos ≤ Config.maxMessages →
    (s.box b).messages[pos - 1]? = some e → s.entry e = some v → v.box = b →
    msgStateOf code = some st →
    (v.state = st → exec (.mark tag box pos code) s =
      .next (s.answered 0x17 tag [b1 (positionIn e (s.box b).messages)])) ∧
    (v.state ≠ st → ∃ t : State, exec (.mark tag box pos code) s =
        .next (t.answered 0x17 tag [b1 (positionIn e (t.box b).messages)]) ∧
      t.entry e = some { v with state := st, stateDay := s.day } ∧
      (∀ f, f ≠ e → t.entry f = s.entry f) ∧
      t.box b = { s.box b with
        messages := (t.box b).messages
        newCount := (s.box b).newCount - (if v.state = .new then 1 else 0) +
          (if st = .new then 1 else 0)
        urgentNew := (s.box b).urgentNew - (if v.state = .new ∧ v.urgent = true then 1 else 0) +
          (if st = .new ∧ v.urgent = true then 1 else 0) } ∧
      (t.box b).messages =
        s.dir.place (Entry.band { v with state := st }) e ((s.box b).messages.erase e) ∧
      s.dir.placedIn (Entry.band { v with state := st }) e ((s.box b).messages.erase e)
        (t.box b).messages ∧
      (∀ c, c ≠ b → t.box c = s.box c) ∧
      { t.dir with boxes := s.dir.boxes, entries := s.dir.entries } = s.dir ∧
      { t with dir := s.dir, lamps := s.lamps, lampQueue := s.lampQueue, line := s.line } = s)

/-- R39, R49, R50, R53: DELETE frees the entry at a position, takes it from its box's list, returns its
charge where its source was charged, and releases its recording's reference; a recording left with
none is freed. A box is refused as R39 gives, a position of 0 or above 48 with RANGE, and one beyond the
list with NO_ENTRY. The width of the counts in the reply is the model's reading (assumption 19). -/
def Obligations.DeleteRemovesEntry : Prop :=
  ∀ (s : State) (tag : Nat) (box : BoxRef) (b pos : Nat), s.ready →
    (∀ r d, s.dir.resolve box = .error (r, d) →
      exec (.delete tag box pos) s = .next (s.refusedWith 0x18 tag r d)) ∧
    (s.dir.resolve box = .ok b →
      (pos = 0 ∨ 48 < pos →
        exec (.delete tag box pos) s = .next (s.refusedWith 0x18 tag .range 0)) ∧
      (1 ≤ pos → pos ≤ 48 → (s.box b).messages.length < pos →
        exec (.delete tag box pos) s = .next (s.refusedWith 0x18 tag .noEntry 0))) ∧
    ∀ (e : Nat) (v : Entry) (w : Recording),
    s.dir.resolve box = .ok b → 1 ≤ pos → pos ≤ Config.maxMessages →
    (s.box b).messages[pos - 1]? = some e → s.entry e = some v → v.box = b →
    s.recording v.recording = some w → 1 ≤ w.references →
    ∃ t : State, exec (.delete tag box pos) s = .next (t.answered 0x18 tag
        [b1 (t.box b).messages.length, b1 (t.box b).newCount, b4 (t.box b).charged]) ∧
      t.entry e = none ∧ (∀ f, f ≠ e → t.entry f = s.entry f) ∧
      t.box b = { s.box b with
        messages := (s.box b).messages.erase e
        newCount := (s.box b).newCount - (if v.state = .new then 1 else 0)
        urgentNew := (s.box b).urgentNew - (if v.state = .new ∧ v.urgent = true then 1 else 0)
        charged := if v.source = .broadcast then (s.box b).charged
          else (s.box b).charged - w.frames } ∧
      (∀ c, c ≠ b → t.box c = s.box c) ∧
      t.recording v.recording =
        (if w.references = 1 then none else some { w with references := w.references - 1 }) ∧
      (∀ q, q ≠ v.recording → t.recording q = s.recording q) ∧ s.poolNotices t t.link ∧
      { t.dir with
        blocks := s.dir.blocks, pool := s.dir.pool, poolLevel := s.dir.poolLevel,
        recordings := s.dir.recordings, boxes := s.dir.boxes,
        entries := s.dir.entries } = s.dir ∧
      { t with dir := s.dir, cache := s.cache, lamps := s.lamps, lampQueue := s.lampQueue,
               line := s.line, link := s.link } = s

/-- R39, R47, R48, R50, R54, R72: FORWARD to an ACTIVE box with room creates a NEW entry there for the
same recording, source FORWARDED with the first box's extension as its sender, at the end of its band with
the other entries in their order, charges the box, and takes a reference. The first test that fails refuses it: box A as R39 gives, its position with RANGE or NO_ENTRY,
box B as R39 gives, then SUSPENDED, FULL for its class's maximum, QUOTA, DUPLICATE, REFS, and FULL where no
entry is free. -/
def Obligations.ForwardCreatesEntry : Prop :=
  ∀ (s : State) (tag : Nat) (boxA boxB : BoxRef) (a pos : Nat) (u : Bool), s.ready →
    (∀ r d, s.dir.resolve boxA = .error (r, d) →
      exec (.forward tag boxA pos boxB (if u then 1 else 0)) s =
        .next (s.refusedWith 0x19 tag r d)) ∧
    (s.dir.resolve boxA = .ok a →
      (pos = 0 ∨ 48 < pos → exec (.forward tag boxA pos boxB (if u then 1 else 0)) s =
        .next (s.refusedWith 0x19 tag .range 0)) ∧
      (1 ≤ pos → pos ≤ 48 → (s.box a).messages.length < pos →
        exec (.forward tag boxA pos boxB (if u then 1 else 0)) s =
          .next (s.refusedWith 0x19 tag .noEntry 0))) ∧
    ∀ (b e : Nat) (v : Entry) (w : Recording),
    s.dir.resolve boxA = .ok a → 1 ≤ pos → pos ≤ Config.maxMessages →
    (s.box a).messages[pos - 1]? = some e → s.entry e = some v →
    s.recording v.recording = some w →
    (∀ r d, s.dir.resolve boxB = .error (r, d) →
      exec (.forward tag boxA pos boxB (if u then 1 else 0)) s =
        .next (s.refusedWith 0x19 tag r d)) ∧
    (∀ r, s.dir.resolve boxB = .ok b →
      ((s.box b).state = .suspended ∧ r = .suspended ∨
        (s.box b).state ≠ .suspended ∧
          ((s.dir.profile b).maxMessages ≤ (s.box b).messages.length + (s.box b).pendingDeposits ∧
              r = .full ∨
            (s.box b).messages.length + (s.box b).pendingDeposits < (s.dir.profile b).maxMessages ∧
              ((s.dir.profile b).quota * 50 <
                  (s.box b).charged + (s.box b).reserved + w.frames ∧ r = .quota ∨
                (s.box b).charged + (s.box b).reserved + w.frames ≤ (s.dir.profile b).quota * 50 ∧
                  ((∃ f ∈ (s.box b).messages, ∃ x, s.entry f = some x ∧
                      x.recording = v.recording) ∧ r = .duplicate ∨
                    s.dir.entryFor b v.recording = none ∧
                      (Config.maxRefs ≤ w.references ∧ r = .refs ∨
                        w.references < Config.maxRefs ∧
                          s.dir.entries.lowestFree Config.numEntries = none ∧ r = .full))))) →
      exec (.forward tag boxA pos boxB (if u then 1 else 0)) s =
        .next (s.refusedWith 0x19 tag r 0)) ∧
    ∀ n, w.references < Config.maxRefs →
    s.dir.resolve boxB = .ok b → (s.box b).state = .active →
    (s.box b).messages.length + (s.box b).pendingDeposits < (s.dir.profile b).maxMessages →
    (s.box b).charged + (s.box b).reserved + w.frames ≤ (s.dir.profile b).quota * 50 →
    s.dir.entryFor b v.recording = none → s.dir.entries.lowestFree Config.numEntries = some n →
    ∃ (t : State) (x : Entry),
      x = { recording := v.recording, box := b, state := .new,
            urgent := u && (s.dir.profile b).urgentAllowed, source := .forwarded,
            deposited := s.retention.clock, stateDay := s.day, sender := some (s.box a).ext,
            job := none } ∧
      exec (.forward tag boxA pos boxB (if u then 1 else 0)) s = .next (t.answered 0x19 tag
        [b2 b, b1 (positionIn n (t.box b).messages), bf x.urgent, b2 (secondsOf w.frames)]) ∧
      t.entry n = some x ∧ (∀ f, f ≠ n → t.entry f = s.entry f) ∧
      t.box b = { s.box b with
        messages := s.dir.place x.band n (s.box b).messages
        newCount := (s.box b).newCount + 1
        urgentNew := (s.box b).urgentNew + (if x.urgent = true then 1 else 0)
        charged := (s.box b).charged + w.frames } ∧
      s.dir.placedIn (if x.urgent = true then 0 else 1) n (s.box b).messages (t.box b).messages ∧
      (∀ c, c ≠ b → t.box c = s.box c) ∧
      t.dir.recordings =
        s.dir.recordings.put v.recording { w with references := w.references + 1 } ∧
      { t.dir with recordings := s.dir.recordings, boxes := s.dir.boxes,
                   entries := s.dir.entries } = s.dir ∧
      { t with dir := s.dir, lamps := s.lamps, lampQueue := s.lampQueue, line := s.line } = s

/-- R159, R160: the cadence that a box's lamp should show. DARK where the box is UNASSIGNED or its
source's condition fails; else FAST for urgent new messages with fast-for-urgent on; else SLOW where
the box is full by count or has fewer than 250 frames remaining; else STEADY. -/
def Obligations.WantedCadenceFollowsBox : Prop :=
  ∀ (d : Directory) (b : Nat) (src : LampSource) (lit : Prop),
    (lit ↔ match src with
      | .off => False
      | .new => 0 < (d.box b).newCount
      | .urgent => 0 < (d.box b).urgentNew
      | .any => 0 < (d.box b).messages.length) →
    ((d.box b).state = .unassigned ∨ ¬ lit → d.wanted b src = .dark) ∧
    ((d.box b).state ≠ .unassigned → lit →
      (0 < (d.box b).urgentNew → d.settings.fastForUrgent = true → d.wanted b src = .fast) ∧
      ((d.box b).urgentNew = 0 ∨ d.settings.fastForUrgent = false →
        ((d.profile b).maxMessages ≤ (d.box b).messages.length ∨
            (((d.profile b).quota * 50 : Nat) : Int) - (d.box b).charged - (d.box b).reserved < 250 →
          d.wanted b src = .slow) ∧
        ((d.box b).messages.length < (d.profile b).maxMessages →
            250 ≤ (((d.profile b).quota * 50 : Nat) : Int) - (d.box b).charged - (d.box b).reserved →
          d.wanted b src = .steady)))

/-- R64, R65, R71: an admission tests state, count, quota and pool level in this order; an admitted
deposit is reserved with the smaller of the maximum message and the remaining frames; settling
returns the reservation and makes the charge in one change. Beside the box only lamps follow. -/
def Obligations.AdmissionReservesAndSettles : Prop :=
  (∀ (d : Directory) (b : Nat),
    ((d.box b).state ≠ .active → d.admission b = some .suspended) ∧
    ((d.box b).state = .active →
      (d.profile b).maxMessages ≤ (d.box b).messages.length + (d.box b).pendingDeposits →
      d.admission b = some .full) ∧
    ((d.box b).state = .active →
      (d.box b).messages.length + (d.box b).pendingDeposits < (d.profile b).maxMessages →
      (d.remaining b < 250 → d.admission b = some .quota) ∧
      (250 ≤ d.remaining b → d.poolLevel = .critical → d.admission b = some .pool) ∧
      (250 ≤ d.remaining b → d.poolLevel ≠ .critical →
        d.admission b = none ∧
          (d.admissionLimit b : Int) = min (((d.profile b).maxMessage * 50 : Nat) : Int)
            (d.remaining b)))) ∧
  ∀ (s : State) (b limit charge : Nat),
    (s.reserve b limit).dir = (s.setBox b { s.box b with
      reserved := (s.box b).reserved + limit
      pendingDeposits := (s.box b).pendingDeposits + 1 }).dir ∧
    { s.reserve b limit with
      dir := s.dir, lamps := s.lamps, lampQueue := s.lampQueue, line := s.line } = s ∧
    (s.settle b limit charge).dir = (s.setBox b { s.box b with
      reserved := (s.box b).reserved - limit
      pendingDeposits := (s.box b).pendingDeposits - 1
      charged := (s.box b).charged + charge }).dir ∧
    { s.settle b limit charge with
      dir := s.dir, lamps := s.lamps, lampQueue := s.lampQueue, line := s.line } = s

/-! ## Lists and jobs -/

/-- R57, R58, R59, R60, R98: LIST CREATE defines an empty list; MEMBER ADD appends a box, and an active
job of the list that stands at END moves to it; MEMBER REMOVE takes a box out, and an active job whose
cursor rests on it moves to the member after it; LIST DELETE ends every job that names the list, in
queue order, with a JOB_DONE LIST_GONE and its hold released, and leaves the list UNDEFINED; the other
jobs stay as they are, but that the first of them becomes active. The notices and the holds are stated
where no recording loses its last reference; the bytes of JOB_DONE stand with JOB CANCEL. The width of the count of jobs ended is the model's reading
(assumption 19). -/
def Obligations.ListRequestsChangeLists : Prop :=
  ∀ (s : State) (tag l : Nat), s.ready → l < Config.numLists →
    (s.members l = none →
      exec (.listCreate tag l) s = .next (State.answered (s.setMembers l []) 0x20 tag [])) ∧
    (∀ ms, s.members l = some ms →
      exec (.listCreate tag l) s = .next (s.refusedWith 0x20 tag .exists_ 0) ∧
      (∀ box b, s.dir.resolve box = .ok b → b ∉ ms → ms.length < Config.maxMembers →
        0 < s.dir.freePlaces →
        exec (.memberAdd tag l box) s = .next (State.answered
          { s.setMembers l (ms ++ [b]) with
            jobs := onHead (fun j => if j.list = some l ∧ j.cursor = .finished
              then { j with cursor := .at b } else j) s.jobs } 0x23 tag [b2 (ms.length + 1)])) ∧
      (∀ box b, s.dir.resolve box = .ok b → b ∈ ms →
        exec (.memberAdd tag l box) s = .next (s.refusedWith 0x23 tag .exists_ 0) ∧
        exec (.memberRemove tag l box) s = .next (State.answered
          { s.setMembers l (ms.erase b) with
            jobs := onHead (fun j => if j.list = some l ∧ j.cursor = .at b
              then { j with cursor := cursorAfter b ms } else j) s.jobs } 0x24 tag
          [b2 (ms.length - 1)])) ∧
      ∃ t : State, exec (.listDelete tag l) s = .next (t.answered 0x22 tag
          [b2 ms.length, b1 (s.jobs.filter (fun j => j.list == some l)).length]) ∧
        t.members l = none ∧ (∀ k, k ≠ l → t.members k = s.members k) ∧
        (∀ j ∈ t.jobs, j.list ≠ some l) ∧
        ((s.jobs.map Job.number).Nodup → (∀ j js, s.jobs = j :: js → j.cursor ≠ .waiting) →
          t.jobs = onHead (fun j => if j.cursor = .waiting then { j with cursor :=
              match j.list with | none => .at 0 | some k => cursorOn ((s.members k).getD []) } else j)
            (s.jobs.filter (fun j => j.list != some l)) ∧
          ∀ ended, ended = s.jobs.filter (fun j => j.list == some l) →
            (∀ q v, s.recording q = some v →
              (ended.filter (fun j => j.recording == q)).length < v.references) →
            t.link = ended.foldl (fun m j => m.raise .jobDone (j.doneFields .listGone)) s.link ∧
            ∀ q, t.recording q = (s.recording q).map (fun v => { v with
              references := v.references - (ended.filter (fun j => j.recording == q)).length })) ∧
        { t.dir with
          blocks := s.dir.blocks, pool := s.dir.pool, poolLevel := s.dir.poolLevel,
          recordings := s.dir.recordings, lists := s.dir.lists } = s.dir ∧
        { t with dir := s.dir, cache := s.cache, jobs := s.jobs, link := s.link } = s)

/-- R93, R94, R95, R96, R100, R102, R103: DELIVER and RECALL queue a job for a SEALED recording and take
its hold; into an empty queue the job enters active, a DELIVER on its list's first member and a RECALL
on box 0. A full queue refuses with FULL. JOB CANCEL ends a job with outcome CANCELLED, JOB_DONE and
its hold released; the other jobs stay as they are, but that the first of them becomes active; a number
that no job holds is refused. JOB_DONE is given field by field; the form of its optional list number is
the model's reading (assumption 19). -/
def Obligations.JobRequestsQueueAndCancel : Prop :=
  ∀ (s : State) (tag r l : Nat) (u : Bool) (v : Recording) (ms : List Nat), s.ready →
    r < Config.numRecordings → l < Config.numLists → s.recording r = some v → v.state = .sealed →
    s.members l = some ms → v.references < Config.maxRefs →
    (s.jobs = [] →
      exec (.deliver tag r l (if u then 1 else 0)) s = .next (State.answered
        { s.setRecording r { v with references := v.references + 1 } with
          jobs := [⟨0, r, some l, u, cursorOn ms, 0, 0, 0, 0⟩] } 0x28 tag [b1 0, b1 1]) ∧
      exec (.recall tag r) s = .next (State.answered
        { s.setRecording r { v with references := v.references + 1 } with
          jobs := [⟨0, r, none, false, .at 0, 0, 0, 0, 0⟩] } 0x29 tag [b1 0, b1 1])) ∧
    (∀ j js, s.jobs = j :: js → j.cursor ≠ .waiting → s.jobs.length < Config.maxJobs →
      exec (.deliver tag r l (if u then 1 else 0)) s = .next (State.answered
        { s.setRecording r { v with references := v.references + 1 } with
          jobs := s.jobs ++ [⟨freeJobNumber s.jobs, r, some l, u, .waiting, 0, 0, 0, 0⟩] } 0x28 tag
        [b1 (freeJobNumber s.jobs), b1 (s.jobs.length + 1)]) ∧
      exec (.recall tag r) s = .next (State.answered
        { s.setRecording r { v with references := v.references + 1 } with
          jobs := s.jobs ++ [⟨freeJobNumber s.jobs, r, none, false, .waiting, 0, 0, 0, 0⟩] } 0x29 tag
        [b1 (freeJobNumber s.jobs), b1 (s.jobs.length + 1)])) ∧
    (Config.maxJobs ≤ s.jobs.length →
      exec (.deliver tag r l (if u then 1 else 0)) s =
          .next (s.refusedWith 0x28 tag .full 0) ∧
        exec (.recall tag r) s = .next (s.refusedWith 0x29 tag .full 0)) ∧
    (∀ n j, n < 256 → s.jobs.find? (fun k => k.number == n) = some j → j.recording = r →
      1 < v.references →
      ∃ t : State, exec (.jobCancel tag n) s = .next (t.answered 0x2A tag [b1 n, b1 1]) ∧
        t.jobs.map Job.number = (s.jobs.map Job.number).filter (· != n) ∧
        t.jobs = onHead (fun j => if j.cursor = .waiting then { j with cursor :=
            match j.list with | none => .at 0 | some k => cursorOn ((s.members k).getD []) } else j)
          (s.jobs.filter (fun k => k.number != n)) ∧
        t.dir = { s.dir with
          recordings := s.dir.recordings.put r { v with references := v.references - 1 } } ∧
        t.link = s.link.raise .jobDone (j.doneFields .cancelled) ∧
        { t with dir := s.dir, jobs := s.jobs, link := s.link } = s) ∧
    (∀ n, n < 256 → s.jobs.find? (fun k => k.number == n) = none →
      exec (.jobCancel tag n) s = .next (s.refusedWith 0x2A tag .noEntry 1)) ∧
    ∀ (j : Job) (o : JobOutcome), j.doneFields o =
      [b1 j.number, b1 (if j.list = none then 1 else 0), b2 j.recording] ++
        (match j.list with | none => [b1 0] | some k => [b1 1, b1 k]) ++
        [b1 (match o with
          | .completed => 0 | .cancelled => 1 | .listGone => 2 | .refs => 3 | .entries => 4),
          b2 j.count, b2 j.inactive, b2 j.full, b2 j.duplicate]

/-- R49, R96, R97, R99, R100, R101, R103: one step of the active DELIVER passes over a member that is not
ACTIVE, one that is full and one that has the recording already, and counts each; it gives an ACTIVE
member with room a NEW entry, source BROADCAST, at no charge; at END the job completes. A recording with
16,383 references ends the job with REFS, and a full entry pool with ENTRIES: JOB_DONE, its hold
released, and the next job active. A RECALL step on a box without the recording moves on; on a box with
an entry for it the entry is removed and counted; the step of box 16,383 completes the job. While the module is
STARTING, or with no job, a step changes nothing (assumption 22). The delivered count goes on past 16,384,
which is the model's choice (assumption 44). -/
def Obligations.JobStepServesMember : Prop :=
  (∀ (s : State) (j : Job) (js : List Job) (l b : Nat) (ms : List Nat), s.running = true →
    s.jobs = j :: js → j.list = some l → j.cursor = .at b → s.members l = some ms →
    ((s.box b).state ≠ .active →
      exec .jobStep s = .next { s with
        jobs := { j with inactive := sat16 j.inactive, cursor := cursorAfter b ms } :: js }) ∧
    ((s.box b).state = .active →
      (s.dir.profile b).maxMessages ≤ (s.box b).messages.length + (s.box b).pendingDeposits →
      exec .jobStep s = .next { s with
        jobs := { j with full := sat16 j.full, cursor := cursorAfter b ms } :: js }) ∧
    ((s.box b).state = .active →
      (s.box b).messages.length + (s.box b).pendingDeposits < (s.dir.profile b).maxMessages →
      s.dir.entryFor b j.recording ≠ none →
      exec .jobStep s = .next { s with
        jobs := { j with duplicate := sat16 j.duplicate, cursor := cursorAfter b ms } :: js }) ∧
    (∀ (w : Recording) (why : JobOutcome), (s.box b).state = .active →
      (s.box b).messages.length + (s.box b).pendingDeposits < (s.dir.profile b).maxMessages →
      s.dir.entryFor b j.recording = none → s.recording j.recording = some w → 1 < w.references →
      (Config.maxRefs ≤ w.references ∧ why = .refs ∨
        w.references < Config.maxRefs ∧
          s.dir.entries.lowestFree Config.numEntries = none ∧ why = .entries) →
      (∀ k ∈ js, k.number ≠ j.number) →
      exec .jobStep s = .next (State.raise
        { s with
          jobs := onHead (fun k => if k.cursor = .waiting then { k with cursor :=
            match k.list with | none => .at 0 | some i => cursorOn ((s.members i).getD []) } else k) js
          dir := { s.dir with recordings :=
            s.dir.recordings.put j.recording { w with references := w.references - 1 } } }
        .jobDone (j.doneFields why))) ∧
    (∀ n w, (s.box b).state = .active →
      (s.box b).messages.length + (s.box b).pendingDeposits < (s.dir.profile b).maxMessages →
      s.dir.entryFor b j.recording = none → s.recording j.recording = some w →
      w.references < Config.maxRefs → s.dir.entries.lowestFree Config.numEntries = some n →
      ∃ (t : State) (x : Entry),
        x = { recording := j.recording, box := b, state := .new,
              urgent := j.urgent && (s.dir.profile b).urgentAllowed, source := .broadcast,
              deposited := s.retention.clock, stateDay := s.day, sender := none,
              job := some j.number } ∧
        exec .jobStep s = .next t ∧
        t.entry n = some x ∧ (∀ f, f ≠ n → t.entry f = s.entry f) ∧
        t.box b = { s.box b with
          messages := s.dir.place x.band n (s.box b).messages
          newCount := (s.box b).newCount + 1
          urgentNew := (s.box b).urgentNew + (if x.urgent = true then 1 else 0) } ∧
        (∀ c, c ≠ b → t.box c = s.box c) ∧
        t.dir.recordings =
          s.dir.recordings.put j.recording { w with references := w.references + 1 } ∧
        t.jobs = { j with count := j.count + 1, cursor := cursorAfter b ms } :: js ∧
        { t.dir with recordings := s.dir.recordings, boxes := s.dir.boxes,
                     entries := s.dir.entries } = s.dir ∧
        { t with dir := s.dir, jobs := s.jobs, lamps := s.lamps, lampQueue := s.lampQueue,
                 line := s.line } = s)) ∧
  (∀ (s : State) (j : Job) (w : Recording), s.running = true → s.jobs = [j] →
    j.cursor = .finished → s.recording j.recording = some w → 1 < w.references →
    exec .jobStep s = .next (State.raise
      { s with
        jobs := []
        dir := { s.dir with recordings :=
          s.dir.recordings.put j.recording { w with references := w.references - 1 } } }
      .jobDone (j.doneFields .completed))) ∧
  (∀ (s : State) (j : Job) (js : List Job) (b : Nat), s.running = true → s.jobs = j :: js →
    j.list = none → j.cursor = .at b → b + 1 < Config.numBoxes →
    s.dir.entryFor b j.recording = none →
    exec .jobStep s = .next { s with jobs := { j with cursor := .at (b + 1) } :: js }) ∧
  (∀ (s : State) (j : Job) (js : List Job) (b e : Nat) (x : Entry), s.running = true →
    s.jobs = j :: js → j.list = none → j.cursor = .at b →
    s.dir.entryFor b j.recording = some e → s.entry e = some x → x.box = b →
    (s.box b).messages.Nodup → ∃ u : State, s.removed u b [e] id ∧
      (b + 1 < Config.numBoxes → exec .jobStep s = .next { u with
        jobs := { j with count := j.count + 1, cursor := .at (b + 1) } :: js }) ∧
      ∀ w, Config.numBoxes ≤ b + 1 → js = [] → s.recording j.recording = some w →
        2 < w.references → exec .jobStep s = .next (State.raise
          { u with
            jobs := []
            dir := { u.dir with recordings :=
              u.dir.recordings.put j.recording { w with references := w.references - 2 } } }
          .jobDone ({ j with count := j.count + 1 }.doneFields .completed))) ∧
  (∀ (s : State) (j : Job) (b : Nat) (w : Recording), s.running = true → s.jobs = [j] →
    j.list = none → j.cursor = .at b → Config.numBoxes ≤ b + 1 →
    s.dir.entryFor b j.recording = none → s.recording j.recording = some w → 1 < w.references →
    exec .jobStep s = .next (State.raise
      { s with
        jobs := []
        dir := { s.dir with recordings :=
          s.dir.recordings.put j.recording { w with references := w.references - 1 } } }
      .jobDone (j.doneFields .completed))) ∧
  ∀ s : State, s.running = false ∨ s.jobs = [] → exec .jobStep s = .next s

/-- R104, R113, R146, R166: JOB STATUS, CLOCK READ, VOICE SETTINGS READ and both forms of LAMP STATUS
answer with the fields of their rules as they stand and change nothing; a job, a lamp and a shelf are
given field by field. The times left come from the model's timebase (assumption 3), the forms of
optional fields, the clock among them, are its reading (assumption 19), and a RECALL's skip counts travel as 0 (assumption
43). -/
def Obligations.UnitReadsReport : Prop :=
  ∀ (s : State) (tag : Nat), s.ready →
    exec (.jobStatus tag) s = .next (s.answered 0x2B tag
      (b1 s.jobs.length :: (s.jobs.zipIdx.flatMap fun j => s.jobFields (j.2 + 1) j.1))) ∧
    exec (.clockRead tag) s = .next (s.answered 0x31 tag
      (bOpt bClock s.retention.clock ++
        bOpt (fun _ => [b1 s.secondsToMinute]) s.retention.clock ++
        bf s.retention.cursor.isSome :: bOpt (fun d => [b2 d]) s.retention.sweepDay ++
        bOpt (fun b => [b2 b]) s.retention.cursor ++
        [b4 s.retention.expired, bf s.retention.rerun])) ∧
    exec (.voiceSettingsRead tag) s = .next (s.answered 0x53 tag
      (s.dir.settings.thresholds.map b2 ++
        [b1 s.dir.settings.speechClass, b1 s.dir.settings.speechCount,
          b2 s.dir.settings.quietLength, b2 s.dir.settings.startTimeout] ++
        s.dir.settings.fadeIn.map b2 ++ s.dir.settings.fadeOut.map b2)) ∧
    (∀ box b, s.dir.resolve box = .ok b →
      exec (.lampStatusBox tag box) s = .next (s.answered 0x5D tag (s.lampFields b))) ∧
    (∀ n, 1 ≤ n → n ≤ 64 →
      exec (.lampStatusShelf tag n) s = .next (s.answered 0x5E tag (s.shelfFields n))) ∧
    (∀ n, n = 0 ∨ 64 < n →
      exec (.lampStatusShelf tag n) s = .next (s.refusedWith 0x5E tag .range 0)) ∧
    (∀ (pos : Nat) (j : Job), s.jobFields pos j =
      [b1 j.number, b1 (if j.list = none then 1 else 0), b2 j.recording] ++
        (match j.list with
          | none => [b1 0, b1 0]
          | some k => [b1 1, b1 k, b1 1, bf j.urgent]) ++
        [b1 pos, b2 j.count, b2 j.inactive, b2 j.full, b2 j.duplicate] ++
        (match j.cursor, j.list with
          | .waiting, _ => [b1 0]
          | .finished, _ => [b1 1, b1 0]
          | .at b, some k => [b1 1, b1 1, b2 b, b2 (positionIn b ((s.members k).getD []))]
          | .at b, none => [b1 1, b2 b])) ∧
    (∀ (b : Nat) (l : Lamp), l = s.lamp b → s.lampFields b =
      (match l.station with | none => [b1 0] | some st => [b1 1, b1 st.1, b1 st.2]) ++
        [b1 l.source.code, b1 l.wanted.code,
          b1 (match l.confirmed with | some c => c.code | none => 4), b1 l.state.code] ++
        (match l.state, l.sent with | .inFlight, some c => [b1 1, b1 c.code] | _, _ => [b1 0]) ++
        (if l.state = .inFlight then [b1 1, b1 l.retries] else [b1 0]) ++
        (match l.failReason with | none => [b1 0] | some f => [b1 1, b1 f.code]) ++
        (if l.state = .queued then [b1 1, b2 (positionIn b s.lampQueue)] else [b1 0]) ++
        (match l.expiry with | none => [b1 0] | some m => [b1 1, b2 (m - s.now)]) ++
        [b2 s.lampQueue.length, b1 s.line.orders.length]) ∧
    ∀ (n : Nat) (h : Shelf) (c : LampState → Nat), h = s.shelf n →
      (∀ st, c st = ((s.lamps.select fun l => l.station.any fun x => x.1 == n).filter
        fun b => (s.lamp b).state == st).length) →
      s.shelfFields n =
        [b1 (if h.up then 0 else 1)] ++
        (match h.pausedUntil with | none => [b1 0] | some m => [b1 1, b2 (m - s.now)]) ++
        [b1 h.nextNumber] ++ (match h.lastAccepted with | none => [b1 0] | some a => [b1 1, b1 a]) ++
        [b1 h.consecutive] ++
        (match h.probeAt with | none => [b1 0] | some m => [b1 1, b2 (m - s.now)]) ++
        (match s.line.orders.find? (fun o => o.shelf == n) with
          | none => [b1 0]
          | some o => [b1 1, b1 o.number, b1 o.cadence.code, b1 o.resends] ++
            (match o.box with | none => [b1 0] | some b => [b1 1, b2 b])) ++
        [b2 h.orders, b2 h.retries, b2 h.failures, b2 h.strays,
          b4 (s.lamps.select fun l => l.station.any fun x => x.1 == n).length, b4 (c .settled),
          b4 (c .waiting), b4 (c .queued), b4 (c .inFlight), b4 (c .failed),
          b2 s.lampQueue.length, b1 s.line.orders.length]

/-! ## The day clock and the sweep -/

/-- R105, R106, R107, R108, R114: CLOCK SET takes the day and the minute, clamped to 1,439, and restarts
the minute timer; a new day starts a pass, or marks a running one for a rerun. The minute timer moves
the clock on one minute; from minute 1,439 the day goes on modulo 65,536, and is a day change, held
while the module is STARTING. An UNSET clock does not move. -/
def Obligations.ClockMovesAndStartsPass : Prop :=
  (∀ (s : State) (tag day minute : Nat), s.ready → day < 65536 →
    (s.day = some day →
      exec (.clockSet tag day minute) s = .next (State.answered
        { s with retention := { s.retention with
          clock := some ⟨day, min minute 1439⟩, minuteStart := s.now } } 0x30 tag
        [b2 day, b2 (min minute 1439), b1 0])) ∧
    (s.day ≠ some day → s.retention.cursor = none →
      exec (.clockSet tag day minute) s = .next (State.answered
        { s with retention := { s.retention with
          clock := some ⟨day, min minute 1439⟩, minuteStart := s.now
          cursor := some 0, sweepDay := some day, expired := 0 } } 0x30 tag
        [b2 day, b2 (min minute 1439), b1 1])) ∧
    (∀ b, s.day ≠ some day → s.retention.cursor = some b →
      exec (.clockSet tag day minute) s = .next (State.answered
        { s with retention := { s.retention with
          clock := some ⟨day, min minute 1439⟩, minuteStart := s.now, rerun := true } } 0x30 tag
        [b2 day, b2 (min minute 1439), b1 1]))) ∧
  ∀ s : State,
    (s.retention.clock = none → exec .minuteTimerExpiry s = .next s) ∧
    (∀ d m, s.retention.clock = some ⟨d, m⟩ → m < 1439 →
      exec .minuteTimerExpiry s = .next { s with retention := { s.retention with
        clock := some ⟨d, m + 1⟩, minuteStart := s.now } }) ∧
    (∀ d, s.retention.clock = some ⟨d, 1439⟩ →
      (s.running = true → s.retention.cursor = none →
        exec .minuteTimerExpiry s = .next { s with retention := { s.retention with
          clock := some ⟨(d + 1) % 65536, 0⟩, minuteStart := s.now
          cursor := some 0, sweepDay := some ((d + 1) % 65536), expired := 0 } }) ∧
      (∀ b, s.running = true → s.retention.cursor = some b →
        exec .minuteTimerExpiry s = .next { s with retention := { s.retention with
          clock := some ⟨(d + 1) % 65536, 0⟩, minuteStart := s.now, rerun := true } }) ∧
      (s.running = false →
        exec .minuteTimerExpiry s = .next { s with retention := { s.retention with
          clock := some ⟨(d + 1) % 65536, 0⟩, minuteStart := s.now, owed := true } }))

/-- R110: an entry of a box expires when the days from its state day to the sweep day, modulo 65,536,
have reached the retention period of its state in the profile of the box's class; a period of 0 never
expires, and no entry without a state day does. Its urgent flag, source and deposited time play no part. -/
def Obligations.ExpiryCountsDaysModulo : Prop :=
  ∀ (s : State) (b day e : Nat) (v : Entry) (p : Profile),
    e ∈ (s.box b).messages → s.entry e = some v → p = s.dir.profiles.of (s.box b).cls →
    (v.stateDay = none → e ∉ s.expiredOf b day) ∧
    ∀ d r : Nat, v.stateDay = some d → d < 65536 →
      r = (match v.state with
        | .new => p.retainNew
        | .heard => p.retainHeard
        | .kept => p.retainKept) →
      (e ∈ s.expiredOf b day ↔ 0 < r ∧ (r : Int) ≤ ((day : Int) - d) % 65536)

/-- R109, R111, R112: one sweep step removes the entries of the cursor's box that expire on the sweep
day, clears an absence that has passed, counts what it removed, and moves on; a box that is UNASSIGNED
is passed over. After the last box the pass ends with SWEEP_DONE and is cleared, and a pass marked for
a rerun starts anew on the clock's day. Without a pass, or while the module is STARTING, a step changes
nothing, which is the model's reading (assumption 22); the count of what was removed has no bound
(assumption 51). An absence has passed when the sweep day lies 1
to 32,767 days after its until-day, modulo 65,536. -/
def Obligations.SweepStepServesBox : Prop :=
  (∀ (x : Box) (u day : Nat), x.absent = true → x.untilDay = some u → u < 65536 →
    (x.absencePassed (some day) = true ↔
      1 ≤ ((day : Int) - u) % 65536 ∧ ((day : Int) - u) % 65536 ≤ 32767)) ∧
  (∀ (s : State) (b day : Nat), s.running = true → s.retention.cursor = some b →
    s.retention.sweepDay = some day → b + 1 < Config.numBoxes →
    ((s.box b).state = .unassigned →
      exec .sweepStep s = .next { s with retention := { s.retention with cursor := some (b + 1) } }) ∧
    ((s.box b).state ≠ .unassigned → s.expiredOf b day = [] →
      exec .sweepStep s = .next
        { (if (s.box b).absencePassed (some day) then s.setBox b { s.box b with
            absent := false, untilDay := none, noDeposit := false } else s) with
          retention := { s.retention with cursor := some (b + 1) } })) ∧
  (∀ (s : State) (b day : Nat) (gone : List Nat), s.running = true → s.retention.cursor = some b →
    s.retention.sweepDay = some day →
    gone = (if (s.box b).state = .unassigned then [] else s.expiredOf b day) →
    (s.box b).messages.Nodup → (∀ e ∈ gone, ∀ v, s.entry e = some v → v.box = b) →
    (∀ e ∈ gone, ∀ f ∈ gone, ∀ v w, s.entry e = some v → s.entry f = some w →
      v.recording = w.recording → e = f) →
    ∃ u : State,
      s.removed u b gone (fun x =>
        if x.state ≠ .unassigned ∧ x.absencePassed (some day) = true then
          { x with absent := false, untilDay := none, noDeposit := false } else x) ∧
      (b + 1 < Config.numBoxes → exec .sweepStep s = .next { u with
        retention := { s.retention with
          cursor := some (b + 1), expired := s.retention.expired + gone.length } }) ∧
      (Config.numBoxes ≤ b + 1 →
        (s.retention.rerun = false ∨ s.day = none → exec .sweepStep s = .next (State.raise
          { u with retention := { s.retention with
            cursor := none, sweepDay := none, expired := 0, rerun := false } }
          .sweepDone [b2 day, b4 (s.retention.expired + gone.length)])) ∧
        ∀ d, s.retention.rerun = true → s.day = some d → exec .sweepStep s = .next (State.raise
          { u with retention := { s.retention with
            cursor := some 0, sweepDay := some d, expired := 0, rerun := false } }
          .sweepDone [b2 day, b4 (s.retention.expired + gone.length)]))) ∧
  ∀ s : State, s.running = false ∨ s.retention.cursor = none → exec .sweepStep s = .next s

/-! ## Calls and ports -/

/-- R115, R116, R117, R129, R140: BIND makes a FREE port IDLE on a slot that no port has, its queues empty and
its detector in START, the rest of the detector as it stood (assumption 41); a slot in use is refused
with EXISTS and its port. UNBIND frees an IDLE port, and any other is BUSY with its state as the detail
(assumption 26). PORT STATUS reports the port as it stands and clears its latched flags; the
forms of its optional fields are the model's reading (assumption 19), and the place and the width of the
trailing run are its choice (assumption 52). -/
def Obligations.BindingPorts : Prop :=
  ∀ (s : State) (tag p : Nat), s.ready → p < Config.numPorts →
    (∀ slot, slot < Config.numSlots → (s.port p).state = .free →
      (s.portOnSlot slot = none →
        exec (.bind tag p slot) s = .next (State.answered
          (s.setPort p { s.port p with
            state := .idle, slot := some slot
            detector := { (s.port p).detector with state := .start }
            playout := [], capture := [] }) 0x40 tag [b1 p, b1 slot])) ∧
      ∀ q, s.portOnSlot slot = some q →
        exec (.bind tag p slot) s = .next (s.refusedWith 0x40 tag .exists_ q)) ∧
    ((s.port p).state = .idle →
      exec (.unbind tag p) s = .next (State.answered
        (s.setPort p { s.port p with state := .free, slot := none }) 0x41 tag [])) ∧
    ((s.port p).state ≠ .idle →
      exec (.unbind tag p) s = .next (s.refusedWith 0x41 tag .busy (s.port p).state.code)) ∧
    exec (.portStatus tag p) s = .next (State.answered
      (s.setPort p { s.port p with flags := PortFlags.clear }) 0x48 tag
      (b1 (s.port p).state.code :: bOpt (fun n => [b1 n]) (s.port p).slot ++
        bOpt (fun o => [b1 (if OpRecord.answer o then 0 else 1)]) (s.port p).op ++
        bOpt (fun o => [b1 (OpRecord.phase o).code]) (s.port p).op ++ b1 (s.port p).stack.length ::
        bOpt (fun l => [b1 (Level.index l), b4 (Level.position l)]) (s.port p).level ++
        bOpt (fun r => [b2 r, b4 (s.framesOf r)]) ((s.port p).op.bind OpRecord.recording) ++
        [b1 (s.port p).detector.state.code, b1 (s.port p).detector.lastClass,
          b4 (s.port p).detector.trailing, b1 (s.port p).playout.length, b1 (s.dir.settings.depth p), b1 (s.port p).capture.length,
          b2 (s.port p).counters.underflows, b2 (s.port p).counters.overflows,
          b2 (s.port p).counters.talks, b2 (s.port p).counters.quiets,
          b2 (s.port p).counters.syncLosses, b4 (s.port p).counters.bits,
          b4 (s.port p).counters.errors, bf (s.port p).flags.underflow,
          bf (s.port p).flags.overflow, bf (s.port p).flags.talk, bf (s.port p).flags.quiet,
          bf (s.port p).flags.syncLoss]))

/-- R4, R10, R14, R39, R50, R118, R119, R120, R122, R144, R147: a MESSAGE segment resolves to its entry's
recording from the start frame on, a GREETING to the recording of its slot, a PROMPT to that of its slot
or to nothing, a RECORDING to a SEALED one, a TONE to 25 frames and a SILENCE to 1 to 500, each refused as
R119 gives. PLAY on an IDLE port, and INTERJECT on a port that plays a plain list with no STOP under way,
resolve the segments, hold each recording once for each segment that plays it, and start the list at its
first frame with an empty queue (assumption 12) and a fade-in; leading segments that play nothing are
passed at once; an INTERJECT pushes the level it breaks into. A bad number of segments or a segment of no
kind is refused with RANGE; PLAY with a segment that does not resolve with that segment's index, and
INTERJECT with detail 0 (R179); a hold above 16,383 references with REFS and the segment's index, in
INTERJECT as in PLAY (the model's reading, assumption 57). PLAY on any other port is BUSY with the port's
state (assumption 26); an INTERJECT is refused with STATE on any other port and with DEPTH where three
levels are stacked. The widths of the seconds are the model's reading (assumption 19). A list in which nothing plays is not stated. -/
def Obligations.PlayAndInterjectStartLists : Prop :=
  (∀ (s : State),
    (∀ (box : BoxRef) (b pos start : Nat) (mark : Bool),
      (∀ r d, s.dir.resolve box = .error (r, d) →
        s.resolveSegment (.message box pos start (if mark then 1 else 0)) = .error (r, d)) ∧
      (s.dir.resolve box = .ok b →
        (pos = 0 ∨ 48 < pos →
          s.resolveSegment (.message box pos start (if mark then 1 else 0)) = .error (.range, 0)) ∧
        (1 ≤ pos → pos ≤ 48 → (s.box b).messages.length < pos →
          s.resolveSegment (.message box pos start (if mark then 1 else 0)) = .error (.noEntry, 0)) ∧
        ∀ e v w, 1 ≤ pos → pos ≤ 48 → (s.box b).messages[pos - 1]? = some e →
          s.entry e = some v → s.recording v.recording = some w →
          s.resolveSegment (.message box pos start (if mark then 1 else 0)) =
            .ok ⟨.message b mark, some v.recording, start, w.frames, false⟩)) ∧
    (∀ (box : BoxRef) (b slot : Nat) (g : GreetingSlot),
      (4 ≤ slot → s.resolveSegment (.greeting box slot) = .error (.range, 0)) ∧
      (greetingSlotOf slot = some g →
        (∀ r d, s.dir.resolve box = .error (r, d) →
          s.resolveSegment (.greeting box slot) = .error (r, d)) ∧
        (s.dir.resolve box = .ok b →
          ((s.box b).greeting g = none →
            s.resolveSegment (.greeting box slot) = .error (.noRecording, 0)) ∧
          ∀ r w, (s.box b).greeting g = some r → s.recording r = some w →
            s.resolveSegment (.greeting box slot) =
              .ok ⟨.greeting, some r, 0, w.frames, false⟩))) ∧
    (∀ n, (512 ≤ n → s.resolveSegment (.prompt n) = .error (.range, 0)) ∧
      (n < 512 → s.dir.prompts.find n = none →
        s.resolveSegment (.prompt n) = .ok ⟨.prompt, none, 0, 0, false⟩) ∧
      ∀ r w, n < 512 → s.dir.prompts.find n = some r → s.recording r = some w →
        s.resolveSegment (.prompt n) = .ok ⟨.prompt, some r, 0, w.frames, false⟩) ∧
    (∀ id start,
      (Config.numRecordings ≤ id →
        s.resolveSegment (.recording id start) = .error (.range, 0)) ∧
      (id < Config.numRecordings → (∀ w, s.recording id = some w → w.state ≠ .sealed) →
        s.resolveSegment (.recording id start) = .error (.noRecording, 0)) ∧
      ∀ w, id < Config.numRecordings → s.recording id = some w → w.state = .sealed →
        s.resolveSegment (.recording id start) =
          .ok ⟨.recording, some id, start, w.frames, false⟩) ∧
    s.resolveSegment .tone = .ok ⟨.tone, none, 0, 25, false⟩ ∧
    (∀ n, s.resolveSegment (.silence n) = .ok ⟨.silence, none, 0, max 1 (min 500 n), false⟩) ∧
    ∀ (i : Nat) (gs : List SegmentSpec),
      (∀ vs, s.resolveSegments i gs = .ok vs ↔ gs.map s.resolveSegment = vs.map .ok) ∧
      ∀ older g rest r d, gs = older ++ g :: rest → (∀ x ∈ older, ∃ y, s.resolveSegment x = .ok y) →
        s.resolveSegment g = .error (r, d) →
        s.resolveSegments i gs = .error (r, i + older.length)) ∧
  ∀ (s : State) (tag p : Nat) (gs : List SegmentSpec), s.ready → p < Config.numPorts →
    (gs = [] ∨ Config.maxSegments < gs.length ∨ (∃ g ∈ gs, knownKind g = false) →
      exec (.play tag p gs) s = .next (s.refusedWith 0x42 tag .range 0) ∧
      exec (.interject tag p gs) s = .next (s.refusedWith 0x43 tag .range 0)) ∧
    (∀ vs : List Segment, vs.length ≤ Config.maxSegments → (s.overflowing [] 1 vs = none ↔
      ∀ r v, r ∈ holdsOf vs → s.recording r = some v →
        v.references + (holdsOf vs).count r ≤ Config.maxRefs)) ∧
    (1 ≤ gs.length → gs.length ≤ Config.maxSegments → (∀ g ∈ gs, knownKind g = true) →
    (∀ (older : List Segment) (g : Segment) (rest vs : List Segment), vs = older ++ g :: rest →
      s.resolveSegments 1 gs = .ok vs → s.overflowing [] 1 vs = none →
      (∀ x ∈ older, x.recording = none ∧ x.stop ≤ x.start) → g.start < g.stop →
      ((s.port p).state = .idle →
        ∃ t : State, exec (.play tag p gs) s = .next (t.answered 0x42 tag
            (b1 vs.length :: vs.map (fun x => b2 (secondsOf (x.stop - x.start))) ++
              [b4 (secondsOf (vs.map fun x => x.stop - x.start).sum)])) ∧
          t.port p = { s.port p with
            state := .playing, op := none, level := some ⟨older.length + 1, g :: rest, g.start⟩,
            playout := [], next := some (older.length + 1, g.start),
            lookahead := (t.port p).lookahead, fadeIn := some 1, underflowCount := 0 } ∧
          (∀ q, q ≠ p → t.port q = s.port q) ∧
          (∀ r, t.recording r = (s.recording r).map fun v =>
            { v with references := v.references + (holdsOf vs).count r }) ∧
          { t.dir with recordings := s.dir.recordings } = s.dir ∧
          { t with dir := s.dir, cache := s.cache, ports := s.ports } = s) ∧
      (∀ l, (s.port p).state = .playing → (s.port p).op = none → (s.port p).stopFade = none →
        (s.port p).level = some l → (s.port p).stack.length < Config.maxStack →
        ∃ t : State, exec (.interject tag p gs) s = .next (t.answered 0x43 tag
            (b1 ((s.port p).stack.length + 1) :: b1 vs.length ::
              vs.map (fun x => b2 (secondsOf (x.stop - x.start))))) ∧
          t.port p = { s.port p with
            level := some ⟨older.length + 1, g :: rest, g.start⟩,
            stack := l :: (s.port p).stack, playout := [],
            next := some (older.length + 1, g.start), lookahead := (t.port p).lookahead,
            fadeIn := some 1 } ∧
          (∀ q, q ≠ p → t.port q = s.port q) ∧
          (∀ r, t.recording r = (s.recording r).map fun v =>
            { v with references := v.references + (holdsOf vs).count r }) ∧
          { t.dir with recordings := s.dir.recordings } = s.dir ∧
          { t with dir := s.dir, cache := s.cache, ports := s.ports } = s)) ∧
    (∀ vs i, s.resolveSegments 1 gs = .ok vs → s.overflowing [] 1 vs = some i →
      ((s.port p).state = .idle →
        exec (.play tag p gs) s = .next (s.refusedWith 0x42 tag .refs i)) ∧
      ∀ l, (s.port p).state = .playing → (s.port p).op = none → (s.port p).stopFade = none →
        (s.port p).level = some l → (s.port p).stack.length < Config.maxStack →
        exec (.interject tag p gs) s = .next (s.refusedWith 0x43 tag .refs i)) ∧
    (∀ r i, (s.port p).state = .idle → s.resolveSegments 1 gs = .error (r, i) →
      exec (.play tag p gs) s = .next (s.refusedWith 0x42 tag r i)) ∧
    (∀ r i l, s.resolveSegments 1 gs = .error (r, i) → (s.port p).state = .playing →
      (s.port p).op = none → (s.port p).stopFade = none → (s.port p).level = some l →
      (s.port p).stack.length < Config.maxStack →
      exec (.interject tag p gs) s = .next (s.refusedWith 0x43 tag r 0)) ∧
    ((s.port p).state ≠ .idle →
      exec (.play tag p gs) s = .next (s.refusedWith 0x42 tag .busy (s.port p).state.code)) ∧
    ((s.port p).state ≠ .playing ∨ (s.port p).op ≠ none ∨ (s.port p).stopFade ≠ none →
      exec (.interject tag p gs) s = .next (s.refusedWith 0x43 tag .state 0)) ∧
    ∀ l, (s.port p).state = .playing → (s.port p).op = none → (s.port p).stopFade = none →
      (s.port p).level = some l → Config.maxStack ≤ (s.port p).stack.length →
      exec (.interject tag p gs) s = .next (s.refusedWith 0x43 tag .depth 0))

/-- R9, R10, R84, R85, R92, R124, R125, R126, R127, R128: STOP, RELEASE and ABORT leave a FREE or IDLE
port as it is and answer its state. STOP of a play list starts its fade, and so does STOP of a greeting
or a refusal prompt, where the tone behind an admitted greeting is no part of the list that fades; STOP
in the tone stands in ToneEndOpensRecording. RELEASE, ABORT and PORT RESET end a play list at once,
release each of its holds and raise PORT_DONE: STOPPED with reason HANGUP, ABORTED, or RESET. A second
STOP ends a fade at once: of a list the stacked level resumes, or with the all flag of either STOP, or
nothing stacked, every level ends and the list is STOPPED; a refusal prompt is NOT_ADMITTED, a
greeting without a deposit GREETING_ONLY; an admitted greeting gives way to the tone, and one that was
not admitted to its refusal prompt, or ends NOT_ADMITTED where there is none. In a path test STOP,
RELEASE and ABORT end it, empty its queue (for STOP the model's choice, assumption 62) and answer its
results; in CLOSING, STOP and RELEASE do nothing and ABORT marks
the recording for discard. RELEASE, ABORT and PORT RESET end an operation that plays, its deposit
settled without a charge, with HUNG_UP_EARLY, ABORTED or RESET. ABORT of a RECORDING port, and PORT RESET
of a RECORDING or CLOSING one, free the recording and end the operation so; STOP and RELEASE of a
RECORDING port stand in CaptureStoresAndEnds. PORT RESET leaves a port clean, IDLE where it has a slot
and FREE where it has none. The replies' forms are the model's reading (assumption 30), and so are the
presence bytes of PORT_DONE (assumption 19), the end reason that it carries (assumption 28), that an
abandoned capture makes a move to QUIET that is due (assumption 6) and that the tone stands behind the
greeting (assumption 16). -/
def Obligations.StoppingPorts : Prop :=
  ∀ (s : State) (tag p : Nat), s.ready → p < Config.numPorts →
    ((s.port p).state = .free ∨ (s.port p).state = .idle →
      (∀ all : Bool, exec (.stop tag p (if all then 1 else 0)) s =
        .next (s.answered 0x44 tag [b1 (s.port p).state.code])) ∧
      exec (.release tag p) s = .next (s.answered 0x45 tag [b1 (s.port p).state.code]) ∧
      exec (.abort tag p) s = .next (s.answered 0x46 tag [b1 (s.port p).state.code])) ∧
    ((s.port p).state = .playing → (s.port p).op = none → (s.port p).stopFade = none →
      ∀ all : Bool, exec (.stop tag p (if all then 1 else 0)) s = .next (State.answered
        (s.setPort p { s.port p with stopFade := some ⟨1, all⟩ }) 0x44 tag [])) ∧
    (∀ (i : Instr) (kind outcome : Nat) (reason : List Field) (clean : Port → Port)
        (fields : List Field),
      (i = .release tag p ∧ kind = 0x45 ∧ outcome = 1 ∧ reason = [b1 1, b1 1] ∧ clean = id ∧
          fields = [] ∨
        i = .abort tag p ∧ kind = 0x46 ∧ outcome = 8 ∧ reason = [b1 0] ∧ clean = id ∧ fields = [] ∨
        i = .portReset tag p ∧ kind = 0x47 ∧ outcome = 14 ∧ reason = [b1 0] ∧
          (clean = fun q => { q with
            detector := Detector.initial, underflowCount := 0
            counters := ⟨0, 0, 0, 0, 0, 0, 0⟩, flags := ⟨false, false, false, false, false⟩ }) ∧
          fields = [b1 (if (s.port p).slot.isSome then 1 else 0)]) →
      (s.port p).state = .playing → (s.port p).op = none →
      ∃ (t : State) (l : Link), exec i s = .next (t.answered kind tag fields) ∧
        t.port p = clean { s.port p with
          state := if (s.port p).slot.isSome then .idle else .free
          level := none, stack := [], playout := [], next := none, lookahead := []
          fadeIn := none, stopFade := none, capture := [], pathTest := none } ∧
        (∀ q, q ≠ p → t.port q = s.port q) ∧ s.released t (s.port p).playHolds ∧
        s.poolNotices t l ∧
        t.link = l.raise .portDone ([b1 p, b1 0, b1 outcome] ++ reason ++
          [b1 0, b1 0, b1 0, b1 0, b1 0, b1 0, b2 (s.port p).underflowCount]) ∧
        ((s.port p).playHolds = [] → l = s.link ∧ t.dir = s.dir) ∧
        { t.dir with
          blocks := s.dir.blocks, pool := s.dir.pool, poolLevel := s.dir.poolLevel,
          recordings := s.dir.recordings } = s.dir ∧
        { t with dir := s.dir, cache := s.cache, ports := s.ports, link := s.link } = s) ∧
    (∀ (l : Level) (x : StopFade) (all : Bool), (s.port p).state = .playing →
      (s.port p).stopFade = some x → (s.port p).level = some l →
      ∃ t : State, exec (.stop tag p (if all then 1 else 0)) s = .next (t.answered 0x44 tag []) ∧
        s.fadeEnds t p l (x.all || all)) ∧
    (∀ (i : Instr) (kind : Nat) (x : PathTest),
      (i = .stop tag p 0 ∧ kind = 0x44 ∨ i = .release tag p ∧ kind = 0x45 ∨
        i = .abort tag p ∧ kind = 0x46) →
      (s.port p).state = .test → (s.port p).pathTest = some x →
      exec i s = .next (State.answered
        (s.setPort p { s.port p with state := .idle, pathTest := none, playout := [] }) kind tag
        [b1 x.mode.code, b1 (if x.inSync then 1 else 0), b4 (s.port p).counters.bits,
          b4 (s.port p).counters.errors, b2 (s.port p).counters.syncLosses, b4 x.inserted])) ∧
    ((s.port p).state = .closing →
      exec (.stop tag p 0) s = .next (s.answered 0x44 tag []) ∧
      exec (.release tag p) s = .next (s.answered 0x45 tag []) ∧
      ∀ o r v, (s.port p).op = some o → o.recording = some r → s.recording r = some v →
        exec (.abort tag p) s = .next (State.answered
          (s.setRecording r { v with discard := true }) 0x46 tag [])) ∧
    (∀ (i : Instr) (kind outcome : Nat) (clean : Port → Port) (fields : List Field) (o : OpRecord),
      (i = .release tag p ∧ kind = 0x45 ∧ outcome = 7 ∧ clean = id ∧ fields = [] ∨
        i = .abort tag p ∧ kind = 0x46 ∧ outcome = 8 ∧ clean = id ∧ fields = [] ∨
        i = .portReset tag p ∧ kind = 0x47 ∧ outcome = 14 ∧
          (clean = fun q => { q with
            detector := Detector.initial, underflowCount := 0
            counters := ⟨0, 0, 0, 0, 0, 0, 0⟩, flags := ⟨false, false, false, false, false⟩ }) ∧
          fields = [b1 (if (s.port p).slot.isSome then 1 else 0)]) →
      (s.port p).state = .playing → (s.port p).op = some o →
      ∃ (t : State) (m : Link), exec i s = .next (t.answered kind tag fields) ∧
        t.port p = clean (s.port p).rested ∧ (∀ q, q ≠ p → t.port q = s.port q) ∧
        s.released t (s.port p).playHolds ∧ s.settledFor t o ∧ s.poolNotices t m ∧
        t.link = m.raise .portDone
          (o.doneWithout p outcome o.endReason (s.port p).underflowCount) ∧
        { t.dir with
          blocks := s.dir.blocks, pool := s.dir.pool, poolLevel := s.dir.poolLevel,
          recordings := s.dir.recordings, boxes := s.dir.boxes } = s.dir ∧
        { t with dir := s.dir, cache := s.cache, ports := s.ports, lamps := s.lamps,
                 lampQueue := s.lampQueue, line := s.line, link := s.link } = s) ∧
    (∀ (i : Instr) (kind outcome r : Nat) (clean : Port → Port) (fields : List Field) (o : OpRecord)
        (v : Recording) (q : Port),
      (i = .abort tag p ∧ kind = 0x46 ∧ outcome = 8 ∧ clean = id ∧ fields = [] ∧
          (s.port p).state = .recording ∨
        i = .portReset tag p ∧ kind = 0x47 ∧ outcome = 14 ∧
          (clean = fun q => { q with
            detector := Detector.initial, underflowCount := 0
            counters := ⟨0, 0, 0, 0, 0, 0, 0⟩, flags := ⟨false, false, false, false, false⟩ }) ∧
          fields = [b1 (if (s.port p).slot.isSome then 1 else 0)] ∧
          ((s.port p).state = .recording ∨ (s.port p).state = .closing)) →
      (s.port p).op = some o → o.recording = some r → s.recording r = some v →
      v.references = 1 → (s.port p).playHolds = [] →
      q = (if (s.port p).detector.quietDue = true then { s.port p with
          detector := { (s.port p).detector with state := .quiet, quietDue := false }
          counters := { (s.port p).counters with quiets := sat16 (s.port p).counters.quiets }
          flags := { (s.port p).flags with quiet := true } } else s.port p) →
      ∃ (t : State) (m : Link), exec i s = .next (t.answered kind tag fields) ∧
        t.port p = clean q.rested ∧ (∀ q, q ≠ p → t.port q = s.port q) ∧
        t.recording r = none ∧ (∀ q, q ≠ r → t.recording q = s.recording q) ∧
        s.settledFor t o ∧ s.poolNotices t m ∧
        t.link = m.raise .portDone
          (o.doneWithout p outcome o.endReason (s.port p).underflowCount) ∧
        { t.dir with
          blocks := s.dir.blocks, pool := s.dir.pool, poolLevel := s.dir.poolLevel,
          recordings := s.dir.recordings, boxes := s.dir.boxes } = s.dir ∧
        { t with dir := s.dir, cache := s.cache, ports := s.ports, lamps := s.lamps,
                 lampQueue := s.lampQueue, line := s.line, link := s.link } = s) ∧
    (∀ (o : OpRecord) (l : Level) (all : Bool), (s.port p).state = .playing →
      (s.port p).op = some o → (s.port p).level = some l →
      (s.port p).stopFade = none → o.phase ≠ .tone →
        ∀ toned : Nat → Bool, (toned = fun k => (l.from k).head?.any (fun g => g.kind == .tone)) →
        exec (.stop tag p (if all then 1 else 0)) s = .next (State.answered
          (s.setPort p (if o.phase = .greeting ∧ o.depositHeld = true then { s.port p with
              level := some { l with segments := l.segments.filter (fun g => g.kind != .tone) }
              playout := (s.port p).playout.filter (fun x => !toned x.segment)
              next := (s.port p).next.filter (fun n => !toned n.1)
              stopFade := some ⟨1, all⟩ }
            else { s.port p with stopFade := some ⟨1, all⟩ })) 0x44 tag [])) ∧
    ((s.port p).state = .free ∨ (s.port p).state = .idle ∨ (s.port p).state = .test →
      exec (.portReset tag p) s = .next (State.answered
        ((s.dropPin p).setPort p { s.port p with
          state := if (s.port p).slot.isSome then .idle else .free
          op := none, level := none, stack := [], playout := [], next := none, lookahead := []
          fadeIn := none, stopFade := none, capture := [], pathTest := none
          detector := Detector.initial, underflowCount := 0
          counters := ⟨0, 0, 0, 0, 0, 0, 0⟩, flags := ⟨false, false, false, false, false⟩ })
        0x47 tag [b1 (if (s.port p).slot.isSome then 1 else 0)]))

/-- R14, R77, R79, R80, R81, R82: a chosen greeting is one segment; the default one is prompt 1, then the
NAME recording, or where there is none a digit prompt for each digit of the extension, then prompt 2, the
empty prompts left out. Behind it stands the tone of an admitted deposit, or the refusal prompt of one
refused, 4 for SUSPENDED and 3 for FULL, QUOTA and POOL. ANSWER chooses the greeting, books the admission (a deposit reserved, a
refusal counted, nothing where the absence takes no deposit) and starts the greeting on an IDLE port
with the operation record of R77 and an empty queue (assumption 12); a port that is not IDLE is refused
with BUSY and its state (assumption 26). The tone and the refusal prompt stand behind the greeting in
one list (assumption 16), and the admission's codes are the model's choice (assumption 42). An
operation whose list plays nothing is not stated. -/
def Obligations.AnswerStartsOperation : Prop :=
  (∀ (s : State) (b : Nat) (busy : Bool),
    ((s.box b).absent = true → (s.box b).absencePassed s.day = false → (s.box b).absence ≠ none →
      s.chooseGreeting b busy = (.absence, (s.box b).noDeposit)) ∧
    ((s.box b).absent = false ∨ (s.box b).absencePassed s.day = true ∨ (s.box b).absence = none →
      (busy = true → (s.box b).busy ≠ none → s.chooseGreeting b busy = (.busy, false)) ∧
      (busy = false ∨ (s.box b).busy = none →
        ((s.box b).standard ≠ none → s.chooseGreeting b busy = (.standard, false)) ∧
        ((s.box b).standard = none → s.chooseGreeting b busy = (.default, false))))) ∧
  (∀ (s : State) (b : Nat) (said : Nat → List Segment),
    (∀ n, said n = match s.dir.prompts.find n with
      | some r => [⟨.prompt, some r, 0, s.framesOf r, false⟩]
      | none => []) →
    (∀ choice g r, (choice = .absence ∧ g = .absence ∨ choice = .busy ∧ g = .busy ∨
        choice = .standard ∧ g = .standard) → (s.box b).greeting g = some r →
      s.greetingList b choice = [⟨.greeting, some r, 0, s.framesOf r, false⟩]) ∧
    (∀ r, (s.box b).name = some r → s.greetingList b .default =
      said 1 ++ [⟨.greeting, some r, 0, s.framesOf r, false⟩] ++ said 2) ∧
    ((s.box b).name = none → s.greetingList b .default =
      said 1 ++ (s.box b).ext.flatMap (fun d => said (10 + (d - 0x30))) ++ said 2) ∧
    s.afterGreeting none false = [⟨.tone, none, 0, 25, false⟩] ∧
    (∀ x, s.afterGreeting x true = []) ∧
    s.afterGreeting (some .suspended) false = (said 4).map (fun g => { g with refusal := true }) ∧
    ∀ x, x = .full ∨ x = .quota ∨ x = .pool →
      s.afterGreeting (some x) false = (said 3).map (fun g => { g with refusal := true })) ∧
  ∀ (s : State) (tag p b reason : Nat) (ext : List Nat) (caller : Option (List Nat))
      (u e busy nodep : Bool) (choice : GreetingChoice) (g : Segment) (rest : List Segment),
    s.ready → p < Config.numPorts → answerBusyOf reason = some busy →
    ((s.port p).state ≠ .idle →
      exec (.answer tag p ext reason (if u then 1 else 0) caller (if e then 1 else 0)) s =
        .next (s.refusedWith 0x38 tag .busy (s.port p).state.code)) ∧
    ((s.port p).state = .idle → s.dir.resolveExt ext = .ok b →
      (∀ c, caller = some c → extValid c = true) →
      s.chooseGreeting b busy = (choice, nodep) →
      s.greetingList b choice ++ s.afterGreeting (s.dir.admission b) nodep = g :: rest →
      s.overflowing [] 1 (g :: rest) = none → g.start < g.stop →
      ∃ (t : State) (o : OpRecord),
        o = { answer := true, target := .box b
              phase := if g.refusal = true then .refusal else
                if g.kind = .tone then .tone else .greeting
              admitted := (s.dir.admission b).isNone
              depositHeld := (s.dir.admission b).isNone && !nodep
              limit := s.dir.admissionLimit b, urgent := u && (s.dir.profile b).urgentAllowed
              sender := caller, endOnSilence := e, greeting := some choice, noDeposit := nodep
              recording := none, endReason := none } ∧
        exec (.answer tag p ext reason (if u then 1 else 0) caller (if e then 1 else 0)) s =
          .next (t.answered 0x38 tag ([b2 b, b1 (match s.dir.admission b with
              | none => 0
              | some .suspended => 1
              | some .full => 2
              | some .quota => 3
              | some _ => 4), b1 choice.code, bf o.depositHeld] ++
            (if o.depositHeld then [b1 1, b2 (secondsOf o.limit)] else [b1 0]) ++ [bf o.urgent])) ∧
        t.port p = { s.port p with
          state := .playing, op := some o, level := some ⟨1, g :: rest, g.start⟩, playout := [],
          next := some (1, g.start), lookahead := (t.port p).lookahead, fadeIn := some 1,
          underflowCount := 0 } ∧
        (∀ q, q ≠ p → t.port q = s.port q) ∧
        (s.dir.admission b = none → nodep = false → t.box b = { s.box b with
          reserved := (s.box b).reserved + o.limit
          pendingDeposits := (s.box b).pendingDeposits + 1 }) ∧
        (s.dir.admission b = none → nodep = true → t.box b = s.box b) ∧
        (s.dir.admission b ≠ none →
          t.box b = { s.box b with refusals := sat16 (s.box b).refusals }) ∧
        (∀ c, c ≠ b → t.box c = s.box c) ∧
        (∀ r, t.recording r = (s.recording r).map fun v =>
          { v with references := v.references + (holdsOf (g :: rest)).count r }) ∧
        { t.dir with recordings := s.dir.recordings, boxes := s.dir.boxes } = s.dir ∧
        { t with dir := s.dir, cache := s.cache, ports := s.ports, lamps := s.lamps,
                 lampQueue := s.lampQueue, line := s.line } = s)

/-- R39, R65, R67, R82, R88, R89: the numbers and codes of a RECORD's target are good where its flag is 0
or 1, a sender is an extension, a slot code one of four, a prompt slot below 512 and a list below 256. A
BOX target names its box by extension and a GREETING target as R39 gives, each refused as there; an
UNDEFINED list is refused with NO_LIST. RECORD on an IDLE port starts with the tone. A BOX target is
admitted and reserved, or refused with its reason and counted; any other target needs a pool level that
is not CRITICAL, and takes its fixed limit. A target with a bad number or code, a port above 31 and a flag
other than 0 and 1 are refused with RANGE, a port that is not IDLE with BUSY and detail 0, a target that
does not resolve with its reason. The queue is empty at the start of the tone (assumption 12), and the
presence bytes of the box index and the urgent flag in the reply are the model's reading (assumption
19). -/
def Obligations.RecordStartsTone : Prop :=
  (∀ spec, (targetCodes spec = .ok () ∨ targetCodes spec = .error (.range, 0)) ∧
    (targetCodes spec = .ok () ↔ match spec with
      | .box _ u sender => u < 2 ∧ ∀ c, sender = some c → extValid c = true
      | .greeting _ slot => slot < 4
      | .prompt n => n < 512
      | .list l u => l < 256 ∧ u < 2
      | .unknown _ => False)) ∧
  (∀ (s : State) (u : Bool) (n : Nat) (sender : Option (List Nat)),
    (∀ ext, s.dir.resolveExt ext = s.dir.resolve (.ext ext) ∧
      (∀ r d, s.dir.resolveExt ext = .error (r, d) →
        s.resolveTarget (.box ext (if u then 1 else 0) sender) = .error (r, d)) ∧
      ∀ b, s.dir.resolveExt ext = .ok b →
        s.resolveTarget (.box ext (if u then 1 else 0) sender) = .ok (.box b)) ∧
    (∀ box g, greetingSlotOf n = some g →
      (∀ r d, s.dir.resolve box = .error (r, d) →
        s.resolveTarget (.greeting box n) = .error (r, d)) ∧
      ∀ b, s.dir.resolve box = .ok b → s.resolveTarget (.greeting box n) = .ok (.greeting b g)) ∧
    s.resolveTarget (.prompt n) = .ok (.prompt n) ∧
    (s.members n = none → s.resolveTarget (.list n (if u then 1 else 0)) = .error (.noList, 0)) ∧
    ∀ ms, s.members n = some ms →
      s.resolveTarget (.list n (if u then 1 else 0)) = .ok (.list n u)) ∧
  (∀ (s : State) (tag p e : Nat) (spec : TargetSpec), s.ready → Config.numPorts ≤ p ∨ 2 ≤ e →
    exec (.record tag p spec e) s = .next (s.refusedWith 0x39 tag .range 0)) ∧
  ∀ (s : State) (tag p : Nat) (e : Bool), s.ready → p < Config.numPorts →
    (∀ spec r d, targetCodes spec = .error (r, d) →
      exec (.record tag p spec (if e then 1 else 0)) s = .next (s.refusedWith 0x39 tag .range 0)) ∧
    (∀ spec, targetCodes spec = .ok () → (s.port p).state ≠ .idle →
      exec (.record tag p spec (if e then 1 else 0)) s = .next (s.refusedWith 0x39 tag .busy 0)) ∧
    ((s.port p).state = .idle →
    (∀ spec r d, targetCodes spec = .ok () → s.resolveTarget spec = .error (r, d) →
      exec (.record tag p spec (if e then 1 else 0)) s = .next (s.refusedWith 0x39 tag r d)) ∧
    (∀ spec goal, targetCodes spec = .ok () → s.resolveTarget spec = .ok goal →
      (∀ b, goal ≠ .box b) →
      (s.dir.poolLevel = .critical → exec (.record tag p spec (if e then 1 else 0)) s =
        .next (s.refusedWith 0x39 tag .pool 0)) ∧
      (s.dir.poolLevel ≠ .critical → ∃ (t : State) (o : OpRecord),
        o = { answer := false, target := goal, phase := .tone, admitted := false
              depositHeld := false, limit := goal.fixedLimit
              urgent := match goal with
                | .list _ u => u
                | _ => false
              sender := none, endOnSilence := e, greeting := none, noDeposit := false
              recording := none, endReason := none } ∧
        exec (.record tag p spec (if e then 1 else 0)) s = .next (t.answered 0x39 tag
          (bOpt (fun b => [b2 b]) goal.box? ++ [b2 (secondsOf goal.fixedLimit)] ++
            match goal with
            | .list _ u => [b1 1, bf u]
            | _ => [b1 0])) ∧
        t.port p = { s.port p with
          state := .playing, op := some o, level := some ⟨1, [Segment.callTone], 0⟩, playout := [],
          next := some (1, 0), lookahead := [], fadeIn := some 1, underflowCount := 0 } ∧
        (∀ q, q ≠ p → t.port q = s.port q) ∧
        { t with ports := s.ports } = s)) ∧
    ∀ (ext : List Nat) (u : Bool) (sender : Option (List Nat)) (b : Nat),
      s.dir.resolveExt ext = .ok b → (∀ c, sender = some c → extValid c = true) →
      (∀ r, s.dir.admission b = some r →
        exec (.record tag p (.box ext (if u then 1 else 0) sender) (if e then 1 else 0)) s =
          .next (State.refusedWith
            (s.setBox b { s.box b with refusals := sat16 (s.box b).refusals }) 0x39 tag r 0)) ∧
      (s.dir.admission b = none → ∃ (t : State) (o : OpRecord),
        o = { answer := false, target := .box b, phase := .tone, admitted := true
              depositHeld := true, limit := s.dir.admissionLimit b
              urgent := u && (s.dir.profile b).urgentAllowed, sender := sender
              endOnSilence := e, greeting := none, noDeposit := false, recording := none
              endReason := none } ∧
        exec (.record tag p (.box ext (if u then 1 else 0) sender) (if e then 1 else 0)) s =
          .next (t.answered 0x39 tag
            [b1 1, b2 b, b2 (secondsOf o.limit), b1 1, bf o.urgent]) ∧
        t.port p = { s.port p with
          state := .playing, op := some o, level := some ⟨1, [Segment.callTone], 0⟩, playout := [],
          next := some (1, 0), lookahead := [], fadeIn := some 1, underflowCount := 0 } ∧
        (∀ q, q ≠ p → t.port q = s.port q) ∧
        t.box b = { s.box b with
          reserved := (s.box b).reserved + o.limit
          pendingDeposits := (s.box b).pendingDeposits + 1 } ∧
        (∀ c, c ≠ b → t.box c = s.box c) ∧
        { t.dir with boxes := s.dir.boxes } = s.dir ∧
        { t with dir := s.dir, ports := s.ports, lamps := s.lamps, lampQueue := s.lampQueue,
                 line := s.line } = s))

/-- R5, R22, R66, R67, R83, R85, R115, R128, R135: when the tone of an operation ends, with its last
frame at a frame time or by a STOP, the recording opens: the lowest EMPTY record and the block at the
pool head are taken, the line of the block is established for the port, and the port is RECORDING with
its queue empty and its detector in START. A recording that opens while the pool level is not NORMAL is
COMPACT; at NORMAL a box deposit takes its class's coding and every other target FULL. That the level
is read before the block is taken is the model's choice (assumption 50). The limits of the targets that
are no box are fixed. Where no record is EMPTY or the pool is empty nothing opens and a deposit is
settled without a charge: a RECORD, and an ANSWER whose refusal prompt is left out, ends NOT_ADMITTED
with reason POOL; another ANSWER plays prompt 3 in its phase REFUSAL. The presence bytes of PORT_DONE are
the model's reading (assumption 19). -/
def Obligations.ToneEndOpensRecording : Prop :=
  (∀ d : Directory,
    (d.poolLevel ≠ .normal → ∀ p, d.codingFor p = .compact) ∧
    (d.poolLevel = .normal →
      (∀ b, d.codingFor (.box b) = (d.profiles.of (d.box b).cls).coding) ∧
      (∀ b g, d.codingFor (.greeting b g) = .full) ∧ (∀ n, d.codingFor (.prompt n) = .full) ∧
      ∀ l u, d.codingFor (.list l u) = .full) ∧
    (∀ b, Purpose.fixedLimit (.greeting b .name) = 500) ∧
    (∀ b g, g ≠ .name → Purpose.fixedLimit (.greeting b g) = 3000) ∧
    (∀ n, Purpose.fixedLimit (.prompt n) = 3000) ∧
    ∀ l u, Purpose.fixedLimit (.list l u) = 6000) ∧
  (∀ (t : Table Recording) (n : Nat),
    (∀ r, t.lowestFree n = some r ↔ r < n ∧ t.find r = none ∧ ∀ q, q < r → t.find q ≠ none) ∧
    (t.lowestFree n = none ↔ ∀ q, q < n → t.find q ≠ none)) ∧
  ∀ (s : State) (p : Nat) (o : OpRecord) (l : Level) (g : Segment) (i : Instr)
      (done : State → State),
    s.running = true → p < Config.numPorts → (s.port p).state = .playing →
    (s.port p).op = some o → o.phase = .tone → (s.port p).stopFade = none →
    (s.port p).stack = [] → (s.port p).level = some l → l.segments = [g] → g.kind = .tone →
    g.recording = none → s.cache.pins.find p = none →
    ((∃ (tag : Nat) (all : Bool), s.link.clear ∧ i = .stop tag p (if all then 1 else 0) ∧
        done = fun t => t.answered 0x44 tag []) ∨
      ∃ (rx : List (Nat × Frame)) (k : Nat) (x : QueuedFrame) (xs : List QueuedFrame) (sent : Frame),
        (s.port p).slot = some k ∧
        (∀ q, q ≠ p → (s.port q).stopFade = none ∧ (s.port q).slot = none) ∧
        (s.port p).playout = x :: xs ∧ x.segment = l.index ∧ x.number + 1 = g.stop ∧
        ((s.port p).fadeIn = none ∧ sent = x.samples ∨ ∃ f, (s.port p).fadeIn = some f ∧
          sent = x.samples.map (scaleSample (gainOf s.dir.settings.fadeIn f))) ∧
        i = .frameTime rx ∧
        done = fun t => { t with now := s.now + 20, transmit := [(k, sent)] }) →
    (∀ r b pool c, s.dir.recordings.lowestFree Config.numRecordings = some r →
      s.dir.pool.take = some (b, pool) → c = s.dir.codingFor o.target →
      ∃ t : State, exec i s = .next (done t) ∧
        t.dir.recordings = s.dir.recordings.put r
          { state := .opened, coding := c, head := b, tail := b, blocks := 1, frames := 0
            limit := o.limit, references := 1, peakClass := 0, trimmed := 0
            created := s.retention.clock, origin := o.sender, purpose := o.target, cut := false
            discard := false } ∧
        t.dir.blocks = s.dir.blocks.put b (.chained r none) ∧ t.dir.pool = pool ∧
        { t.dir with blocks := s.dir.blocks, recordings := s.dir.recordings, pool := s.dir.pool,
                     poolLevel := s.dir.poolLevel } = s.dir ∧
        t.cache = (s.cache.establish b c p).1 ∧
        t.port p = { s.port p with
          state := .recording, level := none, playout := [], next := none, lookahead := []
          fadeIn := none, capture := [], detector := Detector.initial
          op := some { o with phase := .capture, recording := some r } } ∧
        (∀ q, q ≠ p → t.port q = s.port q) ∧ s.poolNotices t t.link ∧
        { t with dir := s.dir, cache := s.cache, ports := s.ports, link := s.link } = s) ∧
    (s.dir.recordings.lowestFree Config.numRecordings = none ∨ s.dir.pool.take = none →
      (o.answer = true → ∃ b, o.target = .box b) →
      ((o.answer = false ∨ s.dir.prompts.find 3 = none ∨ ∃ r w, s.dir.prompts.find 3 = some r ∧
          s.recording r = some w ∧ Config.maxRefs ≤ w.references) →
        ∃ t : State, exec i s = .next (done t) ∧
          t.port p = (s.port p).rested ∧ (∀ q, q ≠ p → t.port q = s.port q) ∧
          s.settledFor t o ∧
          t.link = s.link.raise .portDone
            (o.doneWithout p 3 (some .pool) (s.port p).underflowCount) ∧
          { t.dir with boxes := s.dir.boxes } = s.dir ∧
          { t with dir := s.dir, ports := s.ports, lamps := s.lamps, lampQueue := s.lampQueue,
                   line := s.line, link := s.link } = s) ∧
      ∀ r w, o.answer = true → s.dir.prompts.find 3 = some r → s.recording r = some w →
        w.references < Config.maxRefs → 0 < w.frames →
        ∃ t : State, exec i s = .next (done t) ∧
          (t.port p).state = .playing ∧
          (t.port p).level = some ⟨1, [⟨.prompt, some r, 0, w.frames, true⟩], 0⟩ ∧
          (t.port p).stack = [] ∧ (t.port p).fadeIn = some 1 ∧
          (t.port p).op = some { o with
            phase := .refusal, depositHeld := false, endReason := some .pool } ∧
          (∀ q, q ≠ p → t.port q = s.port q) ∧ s.settledFor t o ∧
          t.dir.recordings = s.dir.recordings.put r { w with references := w.references + 1 } ∧
          { t.dir with boxes := s.dir.boxes, recordings := s.dir.recordings } = s.dir ∧
          { t with dir := s.dir, cache := s.cache, ports := s.ports, lamps := s.lamps,
                   lampQueue := s.lampQueue, line := s.line } = s)

/-- R8, R9, R33, R48, R55, R71, R87, R90, R91, R92, R128: a SEALING recording none of whose lines is
MODIFIED or WRITING seals; while one still waits for the flash array nothing changes, and the write
that ends well makes the test again. A box deposit gains its box a NEW entry, source CALLER of an
ANSWER and RECORDED of a RECORD, at the end of its band with the others in their order (R47), and its
reservation is exchanged for the charge in the same change: PORT_DONE DEPOSITED. A greeting or a prompt takes its slot, the recording it held released: REPLACED;
a greeting whose box is gone is released: BOX_GONE. A list recording queues a job: COMPLETED, or
LIST_GONE or JOB_FULL with the recording released. A box deposit that finds no free entry is released and
settled without a charge: FULL. A recording with its discard mark is freed when it would seal, its
deposit settled without a charge and no owner told: ABORTED. The presence bytes of PORT_DONE are the model's
reading (assumption 19), and so are that the operation record keeps the end reason (assumption 28) and
that the seal comes before the wait queue is retried and the scheduler chooses (assumption 14). -/
def Obligations.DepositSealsIntoEntry : Prop :=
  (∀ (s : State) (m c r : Nat) (next : Option Nat) (x : List Byte), s.running = true →
    s.cache.inFlight = some ⟨true, m, c⟩ → s.cache.line m = ⟨.writing, some c, false, x⟩ →
    s.dir.block c = some (.chained r next) →
    ∀ u, u = State.sealTest { s with
        flash := s.flash.write unwrittenPayload c x
        cache := { s.cache with
          lines := s.cache.lines.write Line.invalid m ⟨.clean, some c, false, x⟩ } } r →
      exec (.writeCompletion m .succeeded) s =
        .next { u with cache := u.cache.afterCompletion m }) ∧
  ∀ (s : State) (r p : Nat) (v : Recording) (o : OpRecord) (t : State),
    s.recording r = some v → v.state = .sealing → t = s.sealTest r →
    (s.unwritten r = true → t = s) ∧
    (∀ outcome : Nat, s.unwritten r = false → v.references = 1 →
      s.portFilling r = some p → (s.port p).op = some o → (s.port p).playHolds = [] →
      (v.discard = true ∧ outcome = 8 ∨
        v.discard = false ∧ outcome = 10 ∧ ∃ b, v.purpose = .box b ∧ o.target = .box b ∧
          s.dir.entryFor b r = none ∧ s.dir.entries.lowestFree Config.numEntries = none) →
      ∃ m : Link, t.recording r = none ∧ (∀ q, q ≠ r → t.recording q = s.recording q) ∧
        s.settledFor t o ∧ t.port p = (s.port p).rested ∧ (∀ q, q ≠ p → t.port q = s.port q) ∧
        s.poolNotices t m ∧
        t.link = m.raise .portDone
          (o.doneWithout p outcome o.endReason (s.port p).underflowCount) ∧
        { t.dir with
          blocks := s.dir.blocks, pool := s.dir.pool, poolLevel := s.dir.poolLevel,
          recordings := s.dir.recordings, boxes := s.dir.boxes } = s.dir ∧
        { t with dir := s.dir, cache := s.cache, ports := s.ports, lamps := s.lamps,
                 lampQueue := s.lampQueue, line := s.line, link := s.link } = s) ∧
    (s.unwritten r = false → v.discard = false → 1 ≤ v.references →
      v.references < Config.maxRefs → s.portFilling r = some p → (s.port p).op = some o →
      (∀ b n, v.purpose = .box b → o.target = .box b → o.depositHeld = true →
        s.dir.entryFor b r = none → s.dir.entries.lowestFree Config.numEntries = some n →
        ∃ x : Entry,
          x = { recording := r, box := b, state := .new, urgent := o.urgent
                source := if o.answer then .caller else .recorded
                deposited := s.retention.clock, stateDay := s.day, sender := o.sender
                job := none } ∧
          t.entry n = some x ∧ (∀ f, f ≠ n → t.entry f = s.entry f) ∧
          t.recording r = some { v with state := .sealed } ∧
          (∀ q, q ≠ r → t.recording q = s.recording q) ∧
          t.box b = { s.box b with
            messages := s.dir.place x.band n (s.box b).messages
            newCount := (s.box b).newCount + 1
            urgentNew := (s.box b).urgentNew + (if o.urgent = true then 1 else 0)
            reserved := (s.box b).reserved - o.limit
            pendingDeposits := (s.box b).pendingDeposits - 1
            charged := (s.box b).charged + v.frames } ∧
          s.dir.placedIn (if o.urgent = true then 0 else 1) n (s.box b).messages
            (t.box b).messages ∧
          (∀ c, c ≠ b → t.box c = s.box c) ∧
          t.port p = (s.port p).rested ∧ (∀ q, q ≠ p → t.port q = s.port q) ∧
          t.link = s.link.raise .portDone
            ([b1 p, b1 (if o.answer then 1 else 2), b1 2] ++
              bOpt (fun w => [b1 (EndReason.code w)]) o.endReason ++
              [b1 1, b2 r, b1 1, b4 v.frames, b1 1, b2 (secondsOf v.frames), b1 1, b2 b, b1 1,
                b1 (positionIn n (s.dir.place x.band n (s.box b).messages)), b1 0,
                b2 (s.port p).underflowCount]) ∧
          { t.dir with recordings := s.dir.recordings, boxes := s.dir.boxes,
                       entries := s.dir.entries } = s.dir ∧
          { t with dir := s.dir, ports := s.ports, lamps := s.lamps, lampQueue := s.lampQueue,
                   line := s.line, link := s.link } = s) ∧
      (∀ (old : Option Nat) (box : List Field) (d : Directory),
        ((∃ b g, v.purpose = .greeting b g ∧ (s.box b).state ≠ .unassigned ∧
            old = (s.box b).greeting g ∧ box = [b1 1, b2 b] ∧
            d = (s.setBox b ((s.box b).setGreeting g (some r))).dir) ∨
          (∃ n, v.purpose = .prompt n ∧ old = s.dir.prompts.find n ∧ box = [b1 0] ∧
            d = { s.dir with prompts := s.dir.prompts.put n r })) →
        old ≠ some r →
        ∃ m : Link, t.recording r = some { v with state := .sealed } ∧
          (∀ q w, old = some q → s.recording q = some w → t.recording q =
            if w.references ≤ 1 then none else some { w with references := w.references - 1 }) ∧
          (∀ q, q ≠ r → old ≠ some q → t.recording q = s.recording q) ∧
          { t.dir with
            blocks := s.dir.blocks, pool := s.dir.pool, poolLevel := s.dir.poolLevel,
            recordings := s.dir.recordings } = d ∧
          t.port p = (s.port p).rested ∧ (∀ q, q ≠ p → t.port q = s.port q) ∧
          s.poolNotices t m ∧ (old = none → m = s.link) ∧
          t.link = m.raise .portDone
            ([b1 p, b1 (if o.answer then 1 else 2), b1 13] ++
              bOpt (fun w => [b1 (EndReason.code w)]) o.endReason ++
              [b1 1, b2 r, b1 1, b4 v.frames, b1 1, b2 (secondsOf v.frames)] ++ box ++
              [b1 0, b1 0, b2 (s.port p).underflowCount]) ∧
          { t with dir := s.dir, cache := s.cache, ports := s.ports, link := s.link } = s) ∧
      (∀ l u ms, v.purpose = .list l u → s.members l = some ms →
        s.jobs.length < Config.maxJobs → (∀ j js, s.jobs = j :: js → j.cursor ≠ .waiting) →
        t.recording r = some { v with state := .sealed } ∧
        (∀ q, q ≠ r → t.recording q = s.recording q) ∧
        { t.dir with recordings := s.dir.recordings } = s.dir ∧
        t.jobs = s.jobs ++ [⟨freeJobNumber s.jobs, r, some l, u,
          if s.jobs = [] then cursorOn ms else .waiting, 0, 0, 0, 0⟩] ∧
        t.port p = (s.port p).rested ∧ (∀ q, q ≠ p → t.port q = s.port q) ∧
        t.link = s.link.raise .portDone
          ([b1 p, b1 (if o.answer then 1 else 2), b1 0] ++
            bOpt (fun w => [b1 (EndReason.code w)]) o.endReason ++
            [b1 1, b2 r, b1 1, b4 v.frames, b1 1, b2 (secondsOf v.frames), b1 0, b1 0, b1 1,
              b1 (freeJobNumber s.jobs), b2 (s.port p).underflowCount]) ∧
        { t with dir := s.dir, jobs := s.jobs, ports := s.ports, link := s.link } = s) ∧
      ∀ (outcome : Nat) (box : List Field),
        ((∃ b g, v.purpose = .greeting b g ∧ (s.box b).state = .unassigned ∧ outcome = 9 ∧
            box = [b1 1, b2 b]) ∨
          (∃ l u, v.purpose = .list l u ∧ s.members l = none ∧ outcome = 12 ∧ box = [b1 0]) ∨
          ∃ l u ms, v.purpose = .list l u ∧ s.members l = some ms ∧
            Config.maxJobs ≤ s.jobs.length ∧ outcome = 11 ∧ box = [b1 0]) →
        v.references = 1 →
        ∃ m : Link, t.recording r = none ∧ (∀ q, q ≠ r → t.recording q = s.recording q) ∧
          { t.dir with
            blocks := s.dir.blocks, pool := s.dir.pool, poolLevel := s.dir.poolLevel,
            recordings := s.dir.recordings } = s.dir ∧
          t.port p = (s.port p).rested ∧ (∀ q, q ≠ p → t.port q = s.port q) ∧
          s.poolNotices t m ∧
          t.link = m.raise .portDone
            ([b1 p, b1 (if o.answer then 1 else 2), b1 outcome] ++
              bOpt (fun w => [b1 (EndReason.code w)]) o.endReason ++ [b1 0, b1 0, b1 0] ++ box ++
              [b1 0, b1 0, b2 (s.port p).underflowCount]) ∧
          { t with dir := s.dir, cache := s.cache, ports := s.ports, link := s.link } = s)

/-! ## Frame times and captures -/

/-- R22, R83, R84, R115, R120, R121, R123, R124, R143, R144, R145, R148, R149, R150, R151: at a frame time
an IDLE or CLOSING port sends silence; a RECORDING port does too, queues the frame it receives or counts
an overflow, and repeats the ESTABLISH of a tail block that has no line and waits for none; a PLAYING port
sends the head of its queue under its fade-in, or silence and an underflow. A port in a STOP fade sends
under the smaller of the two gains, and silence without an underflow past its list (assumption 54); the
last 8 frames before a tone go under the fade-out. With its last frame a segment completes: message HEARD,
hold released; then follows the next segment, the tone or the refusal prompt, the stacked level, or
PORT_DONE: COMPLETED, GREETING_ONLY, NOT_ADMITTED. After its send the port touches where its fill has
fallen below half, and again where a lookahead block has no line, and copies until the queue is full or a
frame cannot be had. Model's choices: silence on a slot not listed (assumption 5), the lookahead's moment
(47), its blocks beside a tone and what is copied from (25), a line looked at for each frame (61), touches
in block order (63) and of a doubled block once (66), pin before touch (55), touch before completion (56),
a raised depth (48), a touch again (60), the queued frame's number (46), code 0x00 at gain 256 (45), only time passes in a warm restart (22). STOP_FADE_END ends a fade whose eighth frame has been sent, as the
next frame time does, and does nothing before or on a port above 31 (assumptions 6, 33); presence bytes of
PORT_DONE (assumption 19), its end reason (28), the tone behind the greeting (16). One bound port is stated
at a time; the end of the tone stands in ToneEndOpensRecording. -/
def Obligations.FrameTimeServesPorts : Prop :=
  (∀ (table : List Nat) (k : Nat), 1 ≤ k → k ≤ table.length → table[k - 1]? = some (gainOf table k)) ∧
  (∀ (gain m : Nat) (c : Byte), gain ≤ 256 → m = magnitudeOf c * gain / 256 →
    (m = 0 → scaleSample gain c = 0x80) ∧
    (m ≠ 0 → (scaleSample gain c).toNat / 128 = c.toNat / 128 ∧
      magnitudeOf (scaleSample gain c) ≤ m ∧
      ∀ d : Byte, d.toNat / 128 = c.toNat / 128 → magnitudeOf d ≤ m →
        magnitudeOf d ≤ magnitudeOf (scaleSample gain c))) ∧
  (∀ (s : State) (rx : List (Nat × Frame)),
    (s.module = .starting .warm →
      exec (.frameTime rx) s = .next { s with now := s.now + 20, transmit := [] }) ∧
    (s.module ≠ .starting .warm →
      (∀ q, q < Config.numPorts → (s.port q).slot = none ∧ (s.port q).stopFade = none) →
      exec (.frameTime rx) s = .next { s with now := s.now + 20, transmit := [] }) ∧
    ∀ p k, s.module ≠ .starting .warm → p < Config.numPorts → (s.port p).slot = some k →
      (∀ q, q < Config.numPorts → (s.port q).stopFade = none ∧ (q ≠ p → (s.port q).slot = none)) →
      ((s.port p).state = .idle ∨ (s.port p).state = .closing →
        exec (.frameTime rx) s =
          .next { s with now := s.now + 20, transmit := [(k, silentFrame)] }) ∧
      (∀ o r v c, (s.port p).state = .recording → (s.port p).op = some o → o.recording = some r →
        s.recording r = some v →
        (c = if s.cache.lineOf v.tail = none ∧ v.frames ≤ (v.blocks - 1) * v.coding.fpb ∧
            (∀ e ∈ s.cache.waitQueue, e.block ≠ v.tail) then
          (s.cache.establish v.tail v.coding p).1 else s.cache) →
        ((s.port p).capture.length < Config.captureQueueSize →
          exec (.frameTime rx) s = .next { (s.setPort p { s.port p with
              capture := (s.port p).capture ++ [receivedOn rx k] } : State) with
            now := s.now + 20, transmit := [(k, silentFrame)], cache := c }) ∧
        (Config.captureQueueSize ≤ (s.port p).capture.length →
          exec (.frameTime rx) s = .next { (s.setPort p { s.port p with
              counters := { (s.port p).counters with
                overflows := sat16 (s.port p).counters.overflows }
              flags := { (s.port p).flags with overflow := true } } : State) with
            now := s.now + 20, transmit := [(k, silentFrame)], cache := c })) ∧
      ∀ l g rest, (s.port p).state = .playing → (s.port p).level = some l →
        l.segments = g :: rest →
        (∀ x xs j, (s.port p).playout = x :: xs → x.segment = l.index → x.number + 1 < g.stop →
          (∀ h, rest.head? = some h → h.kind ≠ .tone) →
          (∀ o, (s.port p).op = some o → rest = [] → o.phase ≠ .greeting ∨ o.depositHeld = false) →
          ((s.port p).fadeIn = none ∧ j = none ∨
            ∃ f, (s.port p).fadeIn = some f ∧ j = some (gainOf s.dir.settings.fadeIn f)) →
          ∃ t : State, exec (.frameTime rx) s = .next t ∧
            t.transmit = [(k, match j with
              | none => x.samples
              | some gain => x.samples.map (scaleSample gain))] ∧
            (t.port p).level = some { l with position := x.number + 1 } ∧
            (t.port p).counters = (s.port p).counters ∧
            (∀ q, q ≠ p → t.port q = s.port q) ∧
            { t with now := s.now, transmit := s.transmit, cache := s.cache,
                     ports := s.ports } = s) ∧
        ((s.port p).playout = [] → l.position < g.stop →
          ∃ t : State, exec (.frameTime rx) s = .next t ∧ t.transmit = [(k, silentFrame)] ∧
            (t.port p).counters = { (s.port p).counters with
              underflows := sat16 (s.port p).counters.underflows } ∧
            (t.port p).flags.underflow = true ∧
            (t.port p).underflowCount = sat16 (s.port p).underflowCount ∧
            (∀ q, q ≠ p → t.port q = s.port q) ∧
            { t with now := s.now, transmit := s.transmit, cache := s.cache,
                     ports := s.ports } = s)) ∧
  ∀ (s : State) (p : Nat),
    (s.running = false ∨ Config.numPorts ≤ p ∨ (s.port p).stopFade = none ∨
        (∃ x, (s.port p).stopFade = some x ∧ x.step < 9) → exec (.stopFadeEnd p) s = .next s) ∧
    (∀ l x, s.running = true → p < Config.numPorts → (s.port p).stopFade = some x → 9 ≤ x.step →
      (s.port p).level = some l →
      ∃ t : State, exec (.stopFadeEnd p) s = .next t ∧ s.fadeEnds t p l x.all ∧
        ((s.port p).op = none →
          (∀ q, q ≠ p → (s.port q).stopFade = none ∧ (s.port q).slot = none) →
          ∀ rx, exec (.frameTime rx) s = exec (.frameTime rx) t)) ∧
    (∀ (rx : List (Nat × Frame)) (k : Nat) (l : Level) (g : Segment) (rest : List Segment)
        (x : QueuedFrame) (xs : List QueuedFrame) (j : Option Nat),
      s.module ≠ .starting .warm → p < Config.numPorts → (s.port p).slot = some k →
      (∀ q, q ≠ p → (s.port q).stopFade = none ∧ (s.port q).slot = none) →
      (s.port p).state = .playing → (s.port p).level = some l → l.segments = g :: rest →
      ((s.port p).fadeIn = none ∧ j = none ∨
        ∃ f, (s.port p).fadeIn = some f ∧ j = some (gainOf s.dir.settings.fadeIn f)) →
      (∀ y all, (s.port p).stopFade = some ⟨y, all⟩ → y ≤ 8 →
        ((s.port p).playout = x :: xs → x.segment = l.index → x.number + 1 < g.stop →
          (∀ h, rest.head? = some h → h.kind ≠ .tone) →
          (∀ o, (s.port p).op = some o → rest = [] → o.phase ≠ .greeting ∨ o.depositHeld = false) →
          ∃ t : State, exec (.frameTime rx) s = .next t ∧
            t.transmit = [(k, x.samples.map (scaleSample (match j with
              | none => gainOf s.dir.settings.fadeOut y
              | some gain => min gain (gainOf s.dir.settings.fadeOut y))))] ∧
            (t.port p).stopFade = some ⟨y + 1, all⟩ ∧
            (t.port p).level = some { l with position := x.number + 1 } ∧
            (t.port p).counters = (s.port p).counters ∧ (∀ q, q ≠ p → t.port q = s.port q) ∧
            { t with now := s.now, transmit := s.transmit, cache := s.cache,
                     ports := s.ports } = s) ∧
        ((s.port p).playout = [] → (s.port p).next = none →
          ∃ t : State, exec (.frameTime rx) s = .next t ∧ t.transmit = [(k, silentFrame)] ∧
            (t.port p).stopFade = some ⟨y + 1, all⟩ ∧
            (t.port p).counters = (s.port p).counters ∧ (∀ q, q ≠ p → t.port q = s.port q) ∧
            { t with now := s.now, transmit := s.transmit, cache := s.cache,
                     ports := s.ports } = s)) ∧
      (∀ (i : Nat) (fade : List Nat), ((s.port p).stopFade = none ∧ fade = [] ∨
          ∃ y all, (s.port p).stopFade = some ⟨y, all⟩ ∧ y ≤ 8 ∧
            fade = [gainOf s.dir.settings.fadeOut y]) →
        (s.port p).playout = x :: xs → x.segment = l.index → x.number + i = g.stop → 1 ≤ i → i ≤ 8 →
        (∃ h more, rest = h :: more ∧ h.kind = .tone) ∨
          (rest = [] ∧ ∃ o, (s.port p).op = some o ∧ o.phase = .greeting ∧ o.depositHeld = true) →
        ∃ t : State, exec (.frameTime rx) s = .next t ∧
          t.transmit = [(k, x.samples.map (scaleSample ((j.toList ++ fade).foldl min
            (gainOf s.dir.settings.fadeOut (9 - i)))))] ∧
          (1 < i → (t.port p).level = some { l with position := x.number + 1 } ∧
            (t.port p).counters = (s.port p).counters ∧ (∀ q, q ≠ p → t.port q = s.port q) ∧
            { t with now := s.now, transmit := s.transmit, cache := s.cache,
                     ports := s.ports } = s)) ∧
      ((s.port p).stopFade = none → (s.port p).playout = x :: xs → x.segment = l.index →
        x.number + 1 = g.stop →
        (∀ r w, g.recording = some r → s.recording r = some w → 1 < w.references) →
        ∀ sent, sent = (match j with
          | none => x.samples
          | some gain => x.samples.map (scaleSample gain)) →
        (∀ h more, rest = h :: more → h.start < h.stop →
          ∃ t u : State, exec (.frameTime rx) s = .next t ∧ t = { u.copy p with transmit := t.transmit } ∧
            (h.kind ≠ .tone → t.transmit = [(k, sent)]) ∧
            u.port p = { s.port p with
              playout := xs, level := some ⟨l.index + 1, rest, h.start⟩, fadeIn := some 1
              op := (s.port p).op.map fun o => { o with phase :=
                if h.refusal = true then .refusal
                else if h.kind = .tone then .tone else o.phase } } ∧
            u.cache = s.touchedAt p (xs.length + 1) xs.length ∧ s.completes u g ∧
            u.link = s.link ∧ u.now = s.now + 20 ∧
            (t.port p).level = some ⟨l.index + 1, rest, h.start⟩ ∧ (t.port p).fadeIn = some 1 ∧
            s.completes t g ∧ ∀ q, q ≠ p → t.port q = s.port q) ∧
        (rest = [] →
          ((s.port p).op = none → ∀ lv st h more, (s.port p).stack = lv :: st →
            lv.segments = h :: more → lv.position < h.stop →
            ∃ t u : State, exec (.frameTime rx) s = .next t ∧
              t = { u.copy p with transmit := [(k, sent)] } ∧
              u.port p = { s.port p with
                playout := [], level := some lv, stack := st, next := some (lv.index, lv.position)
                lookahead := u.lookaheadOf p, fadeIn := some 1 } ∧
              s.completes u g ∧ u.link = s.link ∧ u.now = s.now + 20 ∧
              (t.port p).state = .playing ∧ (t.port p).level = some lv ∧ (t.port p).stack = st ∧
              (t.port p).fadeIn = some 1 ∧ s.completes t g ∧ ∀ q, q ≠ p → t.port q = s.port q) ∧
          ((s.port p).stack = [] → ∀ done : List Field,
            ((s.port p).op = none ∧ done = [b1 p, b1 0, b1 0, b1 0, b1 0, b1 0, b1 0, b1 0, b1 0, b1 0,
                b2 (s.port p).underflowCount] ∨
              ∃ o outcome, (s.port p).op = some o ∧ o.depositHeld = false ∧
                (o.phase = .greeting ∧ o.noDeposit = true ∧ outcome = 4 ∨
                  (o.phase = .greeting ∨ o.phase = .refusal) ∧ o.noDeposit = false ∧
                    outcome = 3) ∧
                done = o.doneWithout p outcome o.endReason (s.port p).underflowCount) →
            ∃ t : State, exec (.frameTime rx) s = .next t ∧ t.transmit = [(k, sent)] ∧
              t.port p = (s.port p).rested ∧ (∀ q, q ≠ p → t.port q = s.port q) ∧
              s.completes t g ∧ t.link = s.link.raise .portDone done ∧ t.now = s.now + 20))) ∧
      ((s.port p).stopFade = none → (s.port p).op = none → (s.port p).playout = x :: xs →
        x.segment = l.index → x.number + 1 < g.stop → (∀ h, rest.head? = some h → h.kind ≠ .tone) →
        ∀ u, u = { s.setPort p { s.port p with
              playout := xs, level := some { l with position := x.number + 1 }
              fadeIn := match (s.port p).fadeIn with
                | none => none
                | some f => if f < 8 then some (f + 1) else none } with
            now := s.now + 20, transmit := []
            cache := s.touchedAt p (xs.length + 1) xs.length } →
          exec (.frameTime rx) s = .next { u.copy p with transmit := [(k, match j with
            | none => x.samples
            | some gain => x.samples.map (scaleSample gain))] })) ∧
    ((s.port p).state ≠ .playing ∨ s.dir.settings.depth p ≤ (s.port p).playout.length →
      s.copy p = s) ∧
    ((s.port p).state = .playing → (s.port p).playout.length < s.dir.settings.depth p →
      (s.copyNext p).2 = false → s.copy p = (s.copyNext p).1) ∧
    ((s.port p).state = .playing → (s.port p).playout.length < s.dir.settings.depth p →
      s.dir.settings.depth p ≤ 64 → (s.copyNext p).2 = true →
      s.copy p = (s.copyNext p).1.copy p) ∧
    (∀ b, s.copiesFrom p b = true ↔
      ∃ n, s.cache.pins.find p = some n ∧ (s.cache.line n).tag = some b) ∧
    (∀ (l : Level) (k f fpb : Nat) (g : Segment) (rest : List Segment) (queued : Frame → State),
      (s.port p).level = some l → (s.port p).next = some (k, f) → l.from k = g :: rest →
      (queued = fun x => s.setPort p { s.port p with
        playout := (s.port p).playout ++ [⟨k, f, x⟩], next := l.frameAt k (f + 1) }) →
      (g.recording = none → s.copyNext p =
        (if g.stop ≤ f + 1 then
            (queued (if g.kind = .tone then toneFrame f else silentFrame)).renewLookahead p
          else queued (if g.kind = .tone then toneFrame f else silentFrame), true)) ∧
      ∀ r b, g.recording = some r → s.blockOf r f = some b → fpb = (s.recCoding r).fpb →
        (s.cache.lineOf b = none →
          s.copyNext p = ({ s with cache := (s.cache.touch b
            (decide ((s.port p).playout.length < s.dir.settings.depth p / 2)) p).1 }, false)) ∧
        ∀ n, s.cache.lineOf b = some n →
          ((s.cache.line n).state ≠ .clean → (s.cache.line n).state ≠ .error →
            s.copyNext p = (s, false)) ∧
          ∀ w, ((s.cache.line n).state = .error ∧ w = queued silentFrame ∨
              (s.cache.line n).state = .clean ∧
                w = { queued ((s.recCoding r).decode (payloadFrame (s.cache.line n).payload
                      (f % fpb) (s.recCoding r).frameBytes)) with
                  cache := if s.cache.pins.find p = some n then s.cache else
                    { s.cache with
                      recency := s.cache.recency.erase n ++ [n], pins := s.cache.pins.put p n } }) →
            s.copyNext p = (if g.stop ≤ f + 1 ∨ (f + 1) / fpb ≠ f / fpb then
              State.renewLookahead { w with cache := w.cache.unpin p } p else w, true)) ∧
    (∃ c : Cache, s.renewLookahead p =
        { s.setPort p { s.port p with lookahead := s.lookaheadOf p } with cache := c } ∧
      c = ((s.lookaheadOf p).filter (fun b => !(s.port p).lookahead.contains b)).foldl
        (fun c b => (c.touch b
          (decide ((s.port p).playout.length < s.dir.settings.depth p / 2)) p).1) s.cache) ∧
    ∀ (l : Level) (k f fpb r : Nat) (g : Segment) (rest : List Segment),
      (s.port p).level = some l → (s.port p).next = some (k, f) → l.from k = g :: rest →
      g.recording = some r → fpb = (s.recCoding r).fpb →
      s.nextBlock p = s.blockOf r f ∧ s.lookaheadOf p = ((s.blockOf r f).toList ++
        (if (f / fpb + 1) * fpb < g.stop then s.blockOf r ((f / fpb + 1) * fpb)
          else s.nextStart rest).toList).dedup

/-- R6, R7, R69, R70, R85, R86, R127, R133, R135, R136, R137, R138, R139: CAPTURE_FRAME_STORE puts the
head frame of the capture queue into the line of the tail block, counts it and examines it; a full block
is followed by the block at the pool head, whose line is established. The detector keeps the 10 newest
flags, reaches TALK with M speech flags among them, has its move to QUIET due in TALK at a frame that is
no speech with a trailing run of at least W, and its start timeout in START at W0 frames examined with no
move to TALK. DETECTOR_QUIET, where it is due, moves the detector to QUIET, and with end-on-silence ends
the capture, as do the start timeout, the limit, an empty pool, STOP and RELEASE. A capture that heard no
speech ends EMPTY and is freed, and one that the trim leaves under 50 frames ends TOO_SHORT and is freed,
each with the reason of its end; any other is trimmed and SEALING, the port CLOSING with the reason. That
these are steps of their own, taken when due, and that an end makes a move to QUIET that is due, are the
model's choices (assumption 6); so are the presence bytes of PORT_DONE (assumption 19) and that the
operation record keeps the end reason (assumption 28). -/
def Obligations.CaptureStoresAndEnds : Prop :=
  ∀ (s : State) (p r : Nat) (o : OpRecord) (v : Recording),
    s.running = true → p < Config.numPorts → (s.port p).state = .recording →
    (s.port p).op = some o → o.recording = some r → s.recording r = some v →
    (∀ x xs n, (s.port p).capture = x :: xs → (s.port p).detector.quietDue = false →
      (s.port p).detector.timeoutDue = false → v.frames < v.limit →
      v.frames < v.blocks * v.coding.fpb → s.cache.lineOf v.tail = some n →
      (s.cache.line n).state = .modified → s.cache.pins.find p = some n →
      ∃ (t : State) (k : Nat),
        k = (s.dir.settings.thresholds.filter
          (· ≤ (x.map magnitudeOf).sum / Config.frameSamples)).length ∧
        exec (.captureFrameStore p) s = .next t ∧
        t.cache = s.cache.setLine n { s.cache.line n with
          payload := payloadPut (s.cache.line n).payload (v.frames % v.coding.fpb)
            v.coding.frameBytes (v.coding.encode x) } ∧
        t.dir = { s.dir with
          recordings := s.dir.recordings.put r
            { v with frames := v.frames + 1, peakClass := max v.peakClass k } } ∧
        (t.port p).capture = xs ∧ (t.port p).detector.lastClass = k ∧
        (t.port p).detector.examined = (s.port p).detector.examined + 1 ∧
        (t.port p).detector.trailing = (if s.dir.settings.speechClass ≤ k then 0
          else (s.port p).detector.trailing + 1) ∧
        (t.port p).detector.window = ((s.port p).detector.window ++
          [decide (s.dir.settings.speechClass ≤ k)]).drop
            ((s.port p).detector.window.length + 1 - 10) ∧
        ((t.port p).detector.quietDue = true ↔ (s.port p).detector.state = .talk ∧
          k < s.dir.settings.speechClass ∧
          s.dir.settings.quietLength ≤ (t.port p).detector.trailing) ∧
        ((t.port p).detector.timeoutDue = true ↔ (s.port p).detector.state = .start ∧
          (t.port p).detector.window.count true < s.dir.settings.speechCount ∧
          s.dir.settings.startTimeout ≤ (t.port p).detector.examined) ∧
        t.port p = Port.examine { s.port p with capture := xs } s.dir.settings k ∧
        ((s.port p).detector.state ≠ .talk →
          s.dir.settings.speechCount ≤ (t.port p).detector.window.count true →
          (t.port p).detector.state = .talk ∧ (t.port p).detector.talkSeen = true ∧
            (t.port p).counters.talks = sat16 (s.port p).counters.talks ∧
            (t.port p).flags.talk = true) ∧
        ((s.port p).detector.state = .talk ∨
            (t.port p).detector.window.count true < s.dir.settings.speechCount →
          (t.port p).detector.state = (s.port p).detector.state ∧
            (t.port p).detector.talkSeen = (s.port p).detector.talkSeen ∧
            (t.port p).counters = (s.port p).counters) ∧
        (∀ q, q ≠ p → t.port q = s.port q) ∧
        { t with dir := s.dir, cache := s.cache, ports := s.ports } = s) ∧
    ((s.port p).detector.quietDue = true → o.endOnSilence = false →
      exec (.detectorQuiet p) s = .next (s.setPort p { s.port p with
        detector := { (s.port p).detector with state := .quiet, quietDue := false }
        counters := { (s.port p).counters with quiets := sat16 (s.port p).counters.quiets }
        flags := { (s.port p).flags with quiet := true } })) ∧
    (∀ x xs b pool m, (s.port p).capture = x :: xs → (s.port p).detector.quietDue = false →
      (s.port p).detector.timeoutDue = false → v.frames < v.limit →
      v.frames = v.blocks * v.coding.fpb → s.dir.pool.take = some (b, pool) →
      s.dir.block b = none → s.dir.block v.tail = some (.chained r none) →
      s.cache.allocatable = some m → s.cache.lineOf b = none → s.cache.canonical →
      (s.cache.quiet ∨ s.cache.inFlight ≠ none) → (∀ n, s.cache.lineOf v.tail = some n → n ≠ m) →
      ∃ (t : State) (k : Nat), exec (.captureFrameStore p) s = .next t ∧
        k = (s.dir.settings.thresholds.filter
          (· ≤ (x.map magnitudeOf).sum / Config.frameSamples)).length ∧
        t.dir.block v.tail = some (.chained r (some b)) ∧ t.dir.block b = some (.chained r none) ∧
        (∀ c, c ≠ b → c ≠ v.tail → t.dir.block c = s.dir.block c) ∧ t.dir.pool = pool ∧
        t.dir.recordings = s.dir.recordings.put r { v with
          frames := v.frames + 1, blocks := v.blocks + 1, tail := b
          peakClass := max v.peakClass k } ∧
        t.cache.line m = ⟨.modified, some b, false,
          payloadPut v.coding.silentPayload 0 v.coding.frameBytes (v.coding.encode x)⟩ ∧
        t.cache.pins.find p = some m ∧
        (∀ n, s.cache.lineOf v.tail = some n → (s.cache.line n).state = .modified →
          (∀ q, q ≠ p → s.cache.pins.find q ≠ some n) →
          n ∈ t.cache.writeQueue ∨ t.cache.inFlight = some ⟨true, n, v.tail⟩) ∧
        t.port p = Port.examine { s.port p with capture := xs } s.dir.settings k ∧
        (∀ q, q ≠ p → t.port q = s.port q) ∧ s.poolNotices t t.link ∧
        { t.dir with blocks := s.dir.blocks, recordings := s.dir.recordings, pool := s.dir.pool,
                     poolLevel := s.dir.poolLevel } = s.dir ∧
        { t with dir := s.dir, cache := s.cache, ports := s.ports, link := s.link } = s) ∧
    ((s.port p).detector.quietDue = false → exec (.detectorQuiet p) s = .next s) ∧
    ((s.port p).detector.timeoutDue = false → exec (.detectorStartTimeout p) s = .next s) ∧
    (v.frames < v.limit → exec (.captureLimitReached p) s = .next s) ∧
    ∀ (i : Instr) (reason : Nat) (why : EndReason) (done : State → State) (q : Port) (t' : Nat),
      ((done = id ∧
          (i = .detectorStartTimeout p ∧ (s.port p).detector.timeoutDue = true ∧ reason = 2 ∧
              why = .silence ∨
            i = .detectorQuiet p ∧ (s.port p).detector.quietDue = true ∧ o.endOnSilence = true ∧
              reason = 2 ∧ why = .silence ∨
            i = .captureLimitReached p ∧ v.limit ≤ v.frames ∧ reason = 3 ∧ why = .limit ∨
            i = .captureFrameStore p ∧ (s.port p).capture ≠ [] ∧
              (s.port p).detector.quietDue = false ∧ (s.port p).detector.timeoutDue = false ∧
              v.frames < v.limit ∧ v.frames = v.blocks * v.coding.fpb ∧ s.dir.pool.take = none ∧
              reason = 4 ∧ why = .pool)) ∨
        (∃ (tag : Nat) (all : Bool), s.link.clear ∧ i = .stop tag p (if all then 1 else 0) ∧
          reason = 0 ∧ why = .stop ∧ done = fun t => t.answered 0x44 tag []) ∨
        ∃ tag : Nat, s.link.clear ∧ i = .release tag p ∧ reason = 1 ∧ why = .hangup ∧
          done = fun t => t.answered 0x45 tag []) →
      q = (if (s.port p).detector.quietDue = true then { s.port p with
          detector := { (s.port p).detector with state := .quiet, quietDue := false }
          counters := { (s.port p).counters with quiets := sat16 (s.port p).counters.quiets }
          flags := { (s.port p).flags with quiet := true } } else s.port p) →
      t' = (if v.cut then 0 else min (min ((s.port p).detector.trailing - s.dir.settings.trimGuard)
        s.dir.settings.trimCap) v.frames) →
      (∀ chain kept : List Nat, (s.port p).detector.talkSeen = true →
        chain = s.dir.chainOf v → chain.Nodup → (∀ a ∈ chain, s.dir.ownerOf a = some r) →
        kept = chain.take (max 1 ((v.frames - t' + v.coding.fpb - 1) / v.coding.fpb)) →
        Config.minFrames ≤ v.frames - t' → s.cache.quiet → s.cache.canonical →
        (∃ a ∈ kept, ∃ m, (s.cache.line m).tag = some a ∧ (s.cache.line m).state = .modified) →
        ∃ t : State, exec i s = .next (done t) ∧
          t.recording r = some { v with
            state := .sealing, trimmed := t', frames := v.frames - t', blocks := kept.length
            tail := kept.getLastD v.head } ∧
          (∀ q, q ≠ r → t.recording q = s.recording q) ∧
          t.port p = { q with
            state := .closing, capture := []
            detector := { q.detector with timeoutDue := false }
            op := some { o with phase := .closing, endReason := some why } } ∧
          (∀ q, q ≠ p → t.port q = s.port q) ∧ s.poolNotices t t.link ∧
          { t.dir with
            blocks := s.dir.blocks, pool := s.dir.pool, poolLevel := s.dir.poolLevel,
            recordings := s.dir.recordings } = s.dir ∧
          { t with dir := s.dir, cache := s.cache, ports := s.ports, link := s.link } = s) ∧
      ∀ outcome : Nat, ((s.port p).detector.talkSeen = false ∧ outcome = 5 ∨
          (s.port p).detector.talkSeen = true ∧ v.frames - t' < Config.minFrames ∧ outcome = 6) →
        v.references = 1 → (s.port p).playHolds = [] →
      ∃ (t : State) (m : Link), exec i s = .next (done t) ∧
        t.port p = { q.rested with detector := { q.detector with timeoutDue := false } } ∧
        (∀ q, q ≠ p → t.port q = s.port q) ∧
        t.recording r = none ∧ (∀ q, q ≠ r → t.recording q = s.recording q) ∧
        s.settledFor t o ∧ s.poolNotices t m ∧
        t.link = m.raise .portDone ([b1 p, b1 (if o.answer then 1 else 2), b1 outcome, b1 1,
          b1 reason, b1 0, b1 0, b1 0] ++ bOpt (fun b => [b2 b]) o.target.box? ++
          [b1 0, b1 0, b2 (s.port p).underflowCount]) ∧
        { t.dir with
          blocks := s.dir.blocks, pool := s.dir.pool, poolLevel := s.dir.poolLevel,
          recordings := s.dir.recordings, boxes := s.dir.boxes } = s.dir ∧
        { t with dir := s.dir, cache := s.cache, ports := s.ports, lamps := s.lamps,
                 lampQueue := s.lampQueue, line := s.line, link := s.link } = s

/-! ## Path tests and voice settings -/

/-- R152, R153, R154, R155, R156: TEST puts an IDLE port in a path test with its numbers clamped and its
seed never 0, and answers them; TEST INSERT takes RATE, SINGLE or OFF on a pattern test, and is refused
with STATE on a port that is in none and with RANGE for a k of 0. At a frame time ECHO queues the frame
received, sends silence while it primes and its head frame from then on; PATTERN_LINE sends the
generator's 160 bytes and checks those received, PATTERN_LOCAL sends silence and checks its own. The
generator sends its seed from bit n - 1 down, and then the exclusive-or of the bits n and y before; an
inserted error inverts one bit and is counted. The checker predicts each bit, enters SYNC after 32 right
ones, counts there, and leaves it at 6 wrong of 64. The code of the port's state as BUSY's detail
(assumption 26), the form of TEST INSERT's reply (assumption 19), the slot that a frame time does not
list (assumption 5), the moment priming ends (assumption 13), by the depth then in force (assumption 49),
and the generator fields that an ECHO answers (assumption 53) are the model's readings. -/
def Obligations.PathTestsStart : Prop :=
  (∀ (s : State) (rx : List (Nat × Frame)) (p k : Nat) (t : PathTest) (f : Frame) (d : Nat),
    s.module ≠ .starting .warm → p < Config.numPorts → (s.port p).slot = some k →
    (s.port p).state = .test → (s.port p).pathTest = some t → (s.port p).stopFade = none →
    (∀ q, q ≠ p → (s.port q).stopFade = none ∧ (s.port q).slot = none) →
    f = receivedOn rx k → d = s.dir.settings.depth p →
    (t.mode = .echo →
      ((s.port p).playout.length < d → t.primed = false →
        exec (.frameTime rx) s = .next { s.setPort p { s.port p with
            playout := (s.port p).playout ++ [⟨0, 0, f⟩]
            pathTest := some { t with
              primed := decide (d / 2 ≤ (s.port p).playout.length + 1) } } with
          now := s.now + 20, transmit := [(k, silentFrame)] }) ∧
      (t.primed = true → ∀ x xs,
        ((s.port p).playout.length < d → (s.port p).playout ++ [⟨0, 0, f⟩] = x :: xs →
          exec (.frameTime rx) s = .next { s.setPort p { s.port p with playout := xs } with
            now := s.now + 20, transmit := [(k, x.samples)] }) ∧
        (d ≤ (s.port p).playout.length → (s.port p).playout = x :: xs →
          exec (.frameTime rx) s = .next { s.setPort p { s.port p with
              playout := xs
              counters := { (s.port p).counters with
                overflows := sat16 (s.port p).counters.overflows }
              flags := { (s.port p).flags with overflow := true } } with
            now := s.now + 20, transmit := [(k, x.samples)] }))) ∧
    (t.mode = .patternLine →
      exec (.frameTime rx) s = .next { s.setPort p (((f.flatMap bitsOfByte).foldl Port.checkBit
          { s.port p with pathTest := some (t.sendBytes 160).2 })) with
        now := s.now + 20, transmit := [(k, (t.sendBytes 160).1)] }) ∧
    (t.mode = .patternLocal →
      exec (.frameTime rx) s = .next { s.setPort p
          ((((t.sendBytes 160).1.flatMap bitsOfByte).foldl Port.checkBit
            { s.port p with pathTest := some (t.sendBytes 160).2 })) with
        now := s.now + 20, transmit := [(k, silentFrame)] })) ∧
  (∀ (t : PathTest) (k i : Nat) (bits : List Bool), 1 ≤ t.y → t.y < t.n → t.register = [] →
    t.single = false → t.rate = none → bits = (t.sendBytes k).1.flatMap bitsOfByte →
    bits.length = 8 * k ∧ (t.sendBytes k).2.inserted = t.inserted ∧
    (i < 8 * k →
      (i < t.n → bits[i]? = some (t.seed / 2 ^ (t.n - 1 - i) % 2 == 1)) ∧
      (t.n ≤ i → bits[i]? = some (xor (bits.getD (i - t.n) false) (bits.getD (i - t.y) false))))) ∧
  (∀ (t u : PathTest) (first made sent : Bool), (made, u) = t.produce → sent = (t.send first).1 →
    u = { t with register := u.register } ∧ (t.send first).2.register = u.register ∧
    (t.rate = none → t.single = false ∨ first = false →
      sent = made ∧ (t.send first).2 = { t with register := u.register }) ∧
    (t.rate = none → t.single = true → first = true →
      sent = !made ∧ (t.send first).2.single = false ∧
        (t.send first).2.inserted = sat32 t.inserted) ∧
    (∀ k, t.rate = some k → t.rateCount + 1 = 10 ^ k →
      sent = !made ∧ (t.send first).2.rateCount = 0 ∧
        (t.send first).2.inserted = sat32 t.inserted) ∧
    (∀ k, t.rate = some k → t.rateCount + 1 ≠ 10 ^ k → t.single = false ∨ first = false →
      sent = made ∧ (t.send first).2.rateCount = t.rateCount + 1 ∧
        (t.send first).2.inserted = t.inserted)) ∧
  (∀ (t : PathTest) (k : Nat), t.single = true → t.rate = none →
    ∃ (b : Bool) (bs : List Bool),
      (PathTest.sendBytes { t with single := false } (k + 1)).1.flatMap bitsOfByte = b :: bs ∧
      (t.sendBytes (k + 1)).1.flatMap bitsOfByte = (!b) :: bs ∧
      (t.sendBytes (k + 1)).2.inserted = sat32 t.inserted) ∧
  (∀ (q : Port) (t u : PathTest) (b wrong : Bool) (w : List Bool), q.pathTest = some t →
    u = { t with history := (b :: t.history).take t.n } →
    wrong = (xor (t.history.getD (t.n - 1) false) (t.history.getD (t.y - 1) false) != b) →
    w = (t.window ++ [wrong]).drop ((t.window ++ [wrong]).length - 64) →
    (t.history.length < t.n → q.checkBit b = { q with pathTest := some u }) ∧
    (t.n ≤ t.history.length →
      (t.inSync = false → q.checkBit b = { q with pathTest := some (
        if wrong = true then { u with run := 0 }
        else if t.run + 1 = 32 then { u with inSync := true, window := [], run := 0 }
        else { u with run := t.run + 1 }) }) ∧
      (t.inSync = true → ∀ c : PortCounters,
        c = { q.counters with
          bits := sat32 q.counters.bits
          errors := if wrong = true then sat24 q.counters.errors else q.counters.errors } →
        (w.count true < 6 →
          q.checkBit b = { q with counters := c, pathTest := some { u with window := w } }) ∧
        (6 ≤ w.count true → q.checkBit b = { q with
          counters := { c with syncLosses := sat16 c.syncLosses }
          flags := { q.flags with syncLoss := true }
          pathTest := some { u with inSync := false, window := [], run := 0 } })))) ∧
  ∀ (s : State) (tag p : Nat), s.ready → p < Config.numPorts →
    exec (.testInsert tag p (.rate 0)) s = .next (s.refusedWith 0x4B tag .range 0) ∧
    (∀ (code n y seed n' y' seed' : Nat) (m : TestMode) (clear : Bool), testModeOf code = some m →
      n' = max 3 (min 23 n) → y' = max 1 (min (n' - 1) y) →
      seed' = (if seed % 2 ^ n' = 0 then 2 ^ n' - 1 else seed % 2 ^ n') →
      ((s.port p).state = .idle →
        exec (.test tag p code n y seed (if clear then 1 else 0)) s = .next (State.answered
          (s.setPort p { s.port p with
            state := .test, playout := [], capture := []
            counters := if clear then { (s.port p).counters with
              bits := 0, errors := 0, syncLosses := 0 } else (s.port p).counters
            pathTest := some { mode := m, n := n', y := y', seed := seed', register := []
                               single := false, rate := none, rateCount := 0, inserted := 0
                               inSync := false, history := [], run := 0, window := []
                               primed := false } }) 0x4A tag
          [b1 m.code, b1 n', b4 y', b4 seed'])) ∧
      ((s.port p).state ≠ .idle →
        exec (.test tag p code n y seed (if clear then 1 else 0)) s =
          .next (s.refusedWith 0x4A tag .busy (s.port p).state.code))) ∧
    (∀ t, (s.port p).state = .test → (s.port p).pathTest = some t → t.mode ≠ .echo →
      (∀ k, 1 ≤ k → exec (.testInsert tag p (.rate k)) s = .next (State.answered
        (s.setPort p { s.port p with
          pathTest := some { t with rate := some (min k 7), rateCount := 0 } }) 0x4B tag
        [b1 2, b1 (min k 7)])) ∧
      exec (.testInsert tag p .off) s = .next (State.answered
        (s.setPort p { s.port p with
          pathTest := some { t with rate := none, rateCount := 0 } }) 0x4B tag
        [b1 (if t.single = true then 1 else 0)]) ∧
      (t.rate = none → exec (.testInsert tag p .single) s = .next (State.answered
        (s.setPort p { s.port p with pathTest := some { t with single := true } }) 0x4B tag
        [b1 1]))) ∧
    ((s.port p).state ≠ .test ∨ (∀ t, (s.port p).pathTest = some t → t.mode = .echo) →
      exec (.testInsert tag p .single) s = .next (s.refusedWith 0x4B tag .state 0))

/-- R134, R141, R146, R147: PLAYOUT SET, DETECTOR SET and RAMP SET clamp their numbers and take them;
LEVEL SET takes a table that does not fall, each threshold clamped to 4,095, and refuses any other with
RANGE and the first entry, from 1, below the entry before it. Nothing else changes. -/
def Obligations.VoiceSettingsClamp : Prop :=
  ∀ (s : State) (tag : Nat), s.ready →
    (∀ p depth d, p < Config.numPorts →
      d = (if depth ≤ 8 then 8 else if depth ≤ 16 then 16 else if depth ≤ 32 then 32 else 64) →
      exec (.playoutSet tag p depth) s = .next (State.answered
        { s with dir := { s.dir with settings := { s.dir.settings with
          depths := s.dir.settings.depths.write 16 p d } } } 0x49 tag [b1 d])) ∧
    (∀ ts : List Nat, (ts.map (min 4095)).Pairwise (· ≤ ·) →
      exec (.levelSet tag ts) s = .next (State.answered
        { s with dir := { s.dir with settings := { s.dir.settings with
          thresholds := ts.map (min 4095) } } } 0x50 tag (ts.map fun n => b2 (min 4095 n)))) ∧
    (∀ (older rest : List Nat) (a b : Nat),
      ((older ++ [a]).map (min 4095)).Pairwise (· ≤ ·) → min 4095 b < min 4095 a →
      exec (.levelSet tag (older ++ a :: b :: rest)) s =
        .next (s.refusedWith 0x50 tag .range (older.length + 2))) ∧
    (∀ c m w w0, exec (.detectorSet tag c m w w0) s = .next (State.answered
      { s with dir := { s.dir with settings := { s.dir.settings with
        speechClass := max 1 (min 15 c), speechCount := max 1 (min 10 m),
        quietLength := max 25 (min 500 w), startTimeout := max 50 (min 1000 w0) } } } 0x51 tag
      [b1 (max 1 (min 15 c)), b1 (max 1 (min 10 m)), b2 (max 25 (min 500 w)),
        b2 (max 50 (min 1000 w0))])) ∧
    ∀ a b : List Nat, exec (.rampSet tag a b) s = .next (State.answered
      { s with dir := { s.dir with settings := { s.dir.settings with
        fadeIn := a.map (min 256), fadeOut := b.map (min 256) } } } 0x52 tag
      ((a.map fun n => b2 (min 256 n)) ++ b.map fun n => b2 (min 256 n)))

/-- R131, R132: what a companded sample expands to; and companding takes the code of the given sign whose
magnitude is the largest at or below the given one, with 0x80 for a magnitude of 0; silence is 0x80
in every sample. A FULL frame is stored as it is. A COMPACT frame is 40 bytes of two-bit codes, four to a
byte from bits 7 and 6 on: from a prediction of 0 and a step of 16 each code gives the next prediction,
clamped, and the next step, and the sample is the prediction companded; the encoder takes at each sample
the lowest of the codes whose prediction is nearest to the sample's value; 40 bytes of 0x00 decode to
silence. -/
def Obligations.CompandingTakesLargestBelow : Prop :=
  (∀ c : Byte,
    magnitudeOf c = (if c.toNat / 16 % 8 = 0 then 2 * (c.toNat % 16)
      else (16 + c.toNat % 16) * 2 ^ (c.toNat / 16 % 8)) ∧
    magnitudeOf c ≤ 3968 ∧
    signedOf c = (if 128 ≤ c.toNat then (magnitudeOf c : Int) else -(magnitudeOf c : Int))) ∧
  (∃ c, magnitudeOf c = 3968) ∧
  (∀ c d : Byte, c.toNat / 128 = d.toNat / 128 → c.toNat < d.toNat →
    magnitudeOf c < magnitudeOf d) ∧
  magnitudeOf 0x00 = 0 ∧ magnitudeOf 0x80 = 0 ∧
  (∀ (positive : Bool), compand positive 0 = 0x80) ∧
  (∀ (positive : Bool) (m : Nat), m ≠ 0 →
    (128 ≤ (compand positive m).toNat ↔ positive = true) ∧
    magnitudeOf (compand positive m) ≤ m ∧
    ∀ c : Byte, (128 ≤ c.toNat ↔ positive = true) → magnitudeOf c ≤ m →
      magnitudeOf c ≤ magnitudeOf (compand positive m)) ∧
  (silentFrame.length = 160 ∧ ∀ c ∈ silentFrame, c = 0x80) ∧
  (∀ f : Frame, Coding.full.encode f = f ∧ Coding.full.decode f = f) ∧
  Coding.compact.decode (List.replicate 40 0x00) = silentFrame ∧
  ∀ (candidate : Int → Nat → Nat → Int) (onward : Nat → Nat → Nat),
    (∀ (p : Int) (step code : Nat), candidate p step code = max (-3968) (min 3968
      (if code = 0 then p else if code = 1 then p + step else if code = 2 then p - step else 0))) →
    (∀ step code : Nat, onward step code =
      if code = 0 ∨ code = 3 then max 8 (step / 2) else min 1024 (2 * step)) →
    (∀ bs : List Byte, bs.length = 40 →
      (Coding.compact.decode bs).length = 160 ∧
      ∃ (p : Nat → Int) (step code : Nat → Nat), p 0 = 0 ∧ step 0 = 16 ∧
        ∀ i, i < 160 →
          code i = (bs.getD (i / 4) 0).toNat / 4 ^ (3 - i % 4) % 4 ∧
          p (i + 1) = candidate (p i) (step i) (code i) ∧ step (i + 1) = onward (step i) (code i) ∧
          (Coding.compact.decode bs)[i]? =
            some (compand (decide (0 ≤ p (i + 1))) (p (i + 1)).natAbs)) ∧
    ∀ f : Frame, f.length = 160 →
      (Coding.compact.encode f).length = 40 ∧
      ∃ (p : Nat → Int) (step code : Nat → Nat), p 0 = 0 ∧ step 0 = 16 ∧
        ∀ i, i < 160 →
          code i = ((Coding.compact.encode f).getD (i / 4) 0).toNat / 4 ^ (3 - i % 4) % 4 ∧
          p (i + 1) = candidate (p i) (step i) (code i) ∧ step (i + 1) = onward (step i) (code i) ∧
          ∀ (v : Int) (c : Nat), v = signedOf (f.getD i 0) → c < 4 →
            (candidate (p i) (step i) (code i) - v).natAbs ≤ (candidate (p i) (step i) c - v).natAbs ∧
            (c < code i →
              (candidate (p i) (step i) (code i) - v).natAbs < (candidate (p i) (step i) c - v).natAbs)

/-! ## Lamps and the lamp line -/

/-- R158, R159, R161: LAMP MAP of a free station gives it to the box and queues the box's lamp with its
present cadence, its confirmed cadence unknown; a station of another box is refused with EXISTS. LAMP
UNMAP removes the station. LAMP SOURCE takes the source and derives the wanted cadence. A mapped record
whose wanted cadence changes acts by its state: SETTLED or FAILED, it waits for its settle timer; WAITING
or IN_FLIGHT, it takes the new cadence and its timer or its order stays; QUEUED, it keeps its place, or
leaves the queue SETTLED where the new cadence is the confirmed one. -/
def Obligations.LampMapping : Prop :=
  ∀ (s : State) (tag : Nat) (box : BoxRef) (b : Nat), s.ready → s.dir.resolve box = .ok b →
    (∀ sh st, 1 ≤ sh → sh ≤ 64 → st < 256 →
      (s.boxAt sh st = none → ∃ t : State,
        exec (.lampMap tag box sh st) s = .next (t.answered 0x58 tag
          [b2 b, b1 sh, b1 st, b1 (s.dir.wanted b (s.lamp b).source).code]) ∧
        (t.lamp b).station = some (sh, st) ∧ (t.lamp b).source = (s.lamp b).source ∧
        (t.lamp b).wanted = s.dir.wanted b (s.lamp b).source ∧ (t.lamp b).confirmed = none ∧
        ((t.lamp b).state = .queued ∨ (t.lamp b).state = .inFlight) ∧
        (t.lamp b).retries = 0 ∧ (t.lamp b).failReason = none ∧ (t.lamp b).expiry = none ∧
        (∀ c, c ≠ b → (t.lamp c).station = (s.lamp c).station ∧
          (t.lamp c).source = (s.lamp c).source ∧ (t.lamp c).wanted = (s.lamp c).wanted ∧
          (t.lamp c).confirmed = (s.lamp c).confirmed) ∧
        ((s.lamp b).station = none → s.line.sending ≠ none →
          t.lampQueue = s.lampQueue ++ [b] ∧ t.line = s.line) ∧
        { t with lamps := s.lamps, lampQueue := s.lampQueue, line := s.line } = s) ∧
      (s.boxAt sh st = some b → exec (.lampMap tag box sh st) s = .next (s.answered 0x58 tag
        [b2 b, b1 sh, b1 st, b1 (s.lamp b).wanted.code])) ∧
      ∀ a, a ≠ b → s.boxAt sh st = some a →
        exec (.lampMap tag box sh st) s = .next (s.refusedWith 0x58 tag .exists_ a)) ∧
    ((s.lamp b).station = none →
      exec (.lampUnmap tag box) s = .next (s.answered 0x59 tag [])) ∧
    ((s.lamp b).station ≠ none → ∃ t : State,
      exec (.lampUnmap tag box) s = .next (t.answered 0x59 tag []) ∧
      t.lamp b = { s.lamp b with
        station := none, state := .settled, confirmed := none, expiry := none, sent := none
        retries := 0, failReason := none } ∧
      (∀ c, c ≠ b → t.lamp c = s.lamp c) ∧
      t.lampQueue = (if (s.lamp b).state = .queued then s.lampQueue.erase b else s.lampQueue) ∧
      t.line.orders = (if (s.lamp b).state = .inFlight then
        s.line.orders.map (fun o => if o.box = some b then { o with box := none } else o)
        else s.line.orders) ∧
      { t.line with orders := s.line.orders } = s.line ∧
      { t with lamps := s.lamps, lampQueue := s.lampQueue, line := s.line } = s) ∧
    ∀ code src, lampSourceOf code = some src → ∃ t : State,
      exec (.lampSource tag box code) s = .next (t.answered 0x5A tag
        [b1 src.code, b1 (s.dir.wanted b src).code]) ∧
      (t.lamp b).source = src ∧ (t.lamp b).wanted = s.dir.wanted b src ∧
      (t.lamp b).station = (s.lamp b).station ∧ (t.lamp b).confirmed = (s.lamp b).confirmed ∧
      ((s.lamp b).station = none ∨ s.dir.wanted b src = (s.lamp b).wanted →
        t.lamp b = { s.lamp b with source := src, wanted := s.dir.wanted b src } ∧
        t.lampQueue = s.lampQueue ∧ t.line = s.line) ∧
      ((s.lamp b).station ≠ none → s.dir.wanted b src ≠ (s.lamp b).wanted →
        ((s.lamp b).state = .settled ∨ (s.lamp b).state = .failed) →
        s.dir.settings.settle ≠ 0 → b ∉ s.lampQueue → t.lamp b = { s.lamp b with
          source := src, wanted := s.dir.wanted b src, state := .waiting, failReason := none
          expiry := some (s.now + s.dir.settings.settle * 250) }) ∧
      ((s.lamp b).station ≠ none → s.dir.wanted b src ≠ (s.lamp b).wanted →
        ((s.lamp b).state = .waiting ∨ (s.lamp b).state = .inFlight ∨
          (s.lamp b).state = .queued ∧ (s.lamp b).confirmed ≠ some (s.dir.wanted b src)) →
        t.lamp b = { s.lamp b with source := src, wanted := s.dir.wanted b src } ∧
        (∀ c, c ≠ b → t.lamp c = s.lamp c) ∧ t.lampQueue = s.lampQueue ∧ t.line = s.line) ∧
      ((s.lamp b).station ≠ none → s.dir.wanted b src ≠ (s.lamp b).wanted →
        (s.lamp b).state = .queued → (s.lamp b).confirmed = some (s.dir.wanted b src) →
        s.lampQueue.Nodup →
        t.lamp b = { s.lamp b with source := src, wanted := s.dir.wanted b src, state := .settled } ∧
        b ∉ t.lampQueue ∧ (s.line.sending ≠ none → t.lampQueue = s.lampQueue.erase b ∧
          (∀ c, c ≠ b → t.lamp c = s.lamp c) ∧ t.line = s.line)) ∧
      (∀ c, c ≠ b → (t.lamp c).station = (s.lamp c).station ∧
        (t.lamp c).source = (s.lamp c).source ∧ (t.lamp c).wanted = (s.lamp c).wanted ∧
        (t.lamp c).confirmed = (s.lamp c).confirmed) ∧
      { t with lamps := s.lamps, lampQueue := s.lampQueue, line := s.line } = s

/-- R164, R165, R172: LAMP SET and LINE SET clamp their numbers and take them. LAMP REFRESH makes the
confirmed cadence of every mapped record of its scope unknown and queues those that are not queued or
in flight, in ascending box number at the queue's tail, and answers how many of each, in 4 bytes, as no
rule bounds the two counts (R185); the idle down-line transmitter then takes its next frame. -/
def Obligations.LampSettingsAndRefresh : Prop :=
  ∀ (s : State) (tag : Nat), s.ready →
    (∀ (a b c d st : Nat) (u : Bool), ∃ t : State,
      exec (.lampSet tag a b c d (if u then 1 else 0) st) s = .next (t.answered 0x5B tag
        [b1 (max 1 (min 40 a)), b1 (max 1 (min 40 b)), b1 (max 1 (min 40 c)),
          b1 (max 1 (min 40 d)), bf u, b1 (min 15 st)]) ∧
      t.dir = { s.dir with settings := { s.dir.settings with
        slowOn := max 1 (min 40 a), slowOff := max 1 (min 40 b), fastOn := max 1 (min 40 c),
        fastOff := max 1 (min 40 d), fastForUrgent := u, settle := min 15 st } } ∧
      (u = s.dir.settings.fastForUrgent → { t with dir := s.dir } = s) ∧
      { t with dir := s.dir, lamps := s.lamps, lampQueue := s.lampQueue, line := s.line } = s) ∧
    (∀ n, exec (.lineSet tag n) s = .next (State.answered
      { s with dir := { s.dir with settings := { s.dir.settings with retryLimit := min 7 n } } }
      0x5F tag [b1 (min 7 n)])) ∧
    ∀ (scope : RefreshScope) (bs : List Nat), s.scopeBoxes scope = .ok bs →
      (s.canonical → ∀ b, b ∈ bs ↔ match scope with
        | .all => (s.lamp b).station ≠ none
        | .shelf n => ∃ st, (s.lamp b).station = some (n, st)
        | .box box => s.dir.resolve box = .ok b ∧ (s.lamp b).station ≠ none
        | .unknown _ => False) ∧
      (s.canonical → bs.Pairwise (· < ·)) ∧
      (s.canonical → ∃ u : State,
        exec (.lampRefresh tag scope) s = .next (u.downNext.answered 0x5C tag
          [b4 (bs.filter fun b => decide ((s.lamp b).state ≠ .queued ∧
              (s.lamp b).state ≠ .inFlight)).length,
            b4 (bs.filter fun b => decide ((s.lamp b).state = .queued ∨
              (s.lamp b).state = .inFlight)).length]) ∧
        u.lampQueue = s.lampQueue ++ bs.filter (fun b => decide ((s.lamp b).state ≠ .queued ∧
          (s.lamp b).state ≠ .inFlight)) ∧
        (∀ b ∈ bs, (s.lamp b).state = .queued ∨ (s.lamp b).state = .inFlight →
          u.lamp b = { s.lamp b with confirmed := none }) ∧
        (∀ b ∈ bs, (s.lamp b).state ≠ .queued → (s.lamp b).state ≠ .inFlight →
          u.lamp b = { s.lamp b with
            confirmed := none, state := .queued, retries := 0, failReason := none
            expiry := none, sent := none }) ∧
        (∀ b, b ∉ bs → u.lamp b = s.lamp b) ∧
        { u with lamps := s.lamps, lampQueue := s.lampQueue } = s) ∧
      ∃ (t : State) (k : Nat),
        k = (bs.filter fun b => decide ((s.lamp b).state = .queued ∨
          (s.lamp b).state = .inFlight)).length ∧
        exec (.lampRefresh tag scope) s = .next (t.answered 0x5C tag
          [b4 (bs.length - k), b4 k]) ∧
        (∀ b ∈ bs, (t.lamp b).confirmed = none ∧
          ((t.lamp b).state = .queued ∨ (t.lamp b).state = .inFlight)) ∧
        (∀ b, b ∉ bs → (t.lamp b).confirmed = (s.lamp b).confirmed) ∧
        (∀ b, (t.lamp b).station = (s.lamp b).station ∧ (t.lamp b).source = (s.lamp b).source ∧
          (t.lamp b).wanted = (s.lamp b).wanted) ∧
        { t with lamps := s.lamps, lampQueue := s.lampQueue, line := s.line } = s

/-- R161, R169, R170, R173: what the idle down-line transmitter takes next: the oldest acknowledgment,
the oldest resend, and then, while fewer than 8 orders are in flight, a due probe of a shelf that can
take one, with the shelf's oldest queued box, or an order for the first queued box whose shelf is UP,
not paused and has none in flight; boxes before it keep their places. DOWN_LINE_FRAME_DONE starts the acknowledgment timer
of the order sent and takes the next frame. SETTLE_TIMER_EXPIRY settles a WAITING record, or queues it
where its wanted cadence is not the confirmed one. That a due probe which cannot be sent stays due, and
that of several the oldest is taken first, are the model's reading (assumption 24). -/
def Obligations.DownLineSendsInOrder : Prop :=
  (∀ s : State,
    (s.line.sending ≠ none → s.downNext = s) ∧
    (s.line.sending = none →
      (∀ sh n rest, s.line.ackQueue = (sh, n) :: rest → s.downNext =
        { s with line := { s.line with ackQueue := rest, sending := some (.ack sh n) } }) ∧
      (s.line.ackQueue = [] →
        (∀ sh rest, s.line.resends = sh :: rest → s.downNext =
          { s with line := { s.line with
            resends := rest
            sending := (s.line.orders.find? (fun o => o.shelf == sh)).map fun o =>
              .order o.shelf o.station o.number o.cadence o.on o.off } }) ∧
        (s.line.resends = [] →
          (Config.lampSlots ≤ s.line.orders.length ∨
              (∀ sh ∈ s.line.probesDue, ¬ s.takesProbe sh) ∧
              (∀ b ∈ s.lampQueue, ∀ sh st, (s.lamp b).station = some (sh, st) →
                ¬ s.takesOrder sh) →
            s.downNext = s) ∧
          (∀ (probe : Bool) early late before b rest sh st on off,
            s.line.orders.length < Config.lampSlots → s.lampQueue = before ++ b :: rest →
            (s.lamp b).station = some (sh, st) →
            (probe = true ∧ s.line.probesDue = early ++ sh :: late ∧
                (∀ x ∈ early, ¬ s.takesProbe x) ∧ s.takesProbe sh ∧
                (∀ a ∈ before, ∀ y, (s.lamp a).station ≠ some (sh, y)) ∨
              probe = false ∧ (∀ x ∈ s.line.probesDue, ¬ s.takesProbe x) ∧ s.takesOrder sh ∧
                ∀ a ∈ before, ∀ x y, (s.lamp a).station = some (x, y) → ¬ s.takesOrder x) →
            (on, off) = (match (s.lamp b).wanted with
              | .dark => (0, 0)
              | .steady => (0, 0)
              | .slow => (s.dir.settings.slowOn, s.dir.settings.slowOff)
              | .fast => (s.dir.settings.fastOn, s.dir.settings.fastOff)) →
            s.downNext.line.sending = some (.order sh st (s.shelf sh).nextNumber
              (s.lamp b).wanted on off) ∧
            s.downNext.line.orders = s.line.orders ++ [⟨sh, st, some b, (s.lamp b).wanted, on, off,
              (s.shelf sh).nextNumber, 0, probe, false⟩] ∧
            s.downNext.line.probesDue = (if probe = true then
              s.line.probesDue.filter (fun n => n != sh) else s.line.probesDue) ∧
            s.downNext.lampQueue = before ++ rest ∧
            s.downNext.lamp b = { s.lamp b with
              state := .inFlight, sent := some (s.lamp b).wanted, retries := 0 } ∧
            (∀ c, c ≠ b → s.downNext.lamp c = s.lamp c) ∧
            s.downNext.shelf sh = { s.shelf sh with
              nextNumber := ((s.shelf sh).nextNumber + 1) % 8
              orders := sat16 (s.shelf sh).orders } ∧
            (∀ n, n ≠ sh → s.downNext.shelf n = s.shelf n) ∧
            { s.downNext with lamps := s.lamps, lampQueue := s.lampQueue,
                              line := s.line } = s))))) ∧
  (∀ s : State,
    (s.line.sending = none → exec .downLineFrameDone s = .next s) ∧
    (∀ sh n, s.line.sending = some (.ack sh n) → exec .downLineFrameDone s =
      .next (State.downNext { s with line := { s.line with sending := none } })) ∧
    ∀ sh st n c on off, s.line.sending = some (.order sh st n c on off) →
      exec .downLineFrameDone s = .next (State.downNext { s with line := { s.line with
        sending := none
        orders := s.line.orders.map (fun o => if o.shelf = sh then
          (if o.number = n then { o with timerRunning := true } else o) else o) } })) ∧
  ∀ (s : State) (b : Nat),
    ((s.lamp b).state ≠ .waiting → exec (.settleTimerExpiry b) s = .next s) ∧
    ((s.lamp b).state = .waiting →
      ((s.lamp b).confirmed = some (s.lamp b).wanted → exec (.settleTimerExpiry b) s =
        .next (State.downNext (s.setLamp b { s.lamp b with state := .settled, expiry := none }))) ∧
      ((s.lamp b).confirmed ≠ some (s.lamp b).wanted → exec (.settleTimerExpiry b) s =
        .next (State.downNext { (s.setLamp b { s.lamp b with
            state := .queued, retries := 0, failReason := none, expiry := none, sent := none } : State) with
          lampQueue := s.lampQueue ++ [b] })))

/-- R163, R172, R173, R175, R176: when the acknowledgment timer of an order expires it is resent while
its resends are below the limit; at the limit its slot is freed and its record FAILED with LAMP_FAIL,
and the third failure in a row takes the shelf DOWN with SHELF_STATE. An unanswered probe frees its slot
and its box rejoins the queue. The probe timer runs on and marks a probe due where the shelf is not
paused and has a box queued; the end of a pause lets the queue be looked at again. -/
def Obligations.OrderTimersExpire : Prop :=
  ∀ (s : State) (sh : Nat), 1 ≤ sh → sh ≤ 64 →
    ((∀ o, s.line.orderOf sh = some o → o.timerRunning = false) →
      exec (.ackTimerExpiry sh) s = .next s) ∧
    (∀ o b, s.line.orderOf sh = some o → o.timerRunning = true → o.box = some b →
      (o.probe = false → o.resends < s.dir.settings.retryLimit → ∃ u : State,
        exec (.ackTimerExpiry sh) s = .next u.downNext ∧
        u.line.orders = s.line.orders.map (fun o => if o.shelf = sh then
          { o with timerRunning := false, resends := o.resends + 1 } else o) ∧
        u.line.resends = s.line.resends ++ [sh] ∧
        u.shelf sh = { s.shelf sh with retries := sat16 (s.shelf sh).retries } ∧
        (∀ n, n ≠ sh → u.shelf n = s.shelf n) ∧
        u.lamp b = { s.lamp b with retries := (s.lamp b).retries + 1 } ∧
        (∀ c, c ≠ b → u.lamp c = s.lamp c) ∧
        { u.line with orders := s.line.orders, resends := s.line.resends,
                      shelves := s.line.shelves } = s.line ∧
        { u with lamps := s.lamps, line := s.line } = s) ∧
      (o.probe = false → s.dir.settings.retryLimit ≤ o.resends → ∃ u : State,
        exec (.ackTimerExpiry sh) s = .next u.downNext ∧
        u.line.orders = s.line.orders.filter (fun o => o.shelf != sh) ∧
        u.shelf sh = (if (s.shelf sh).consecutive < 2 then { s.shelf sh with
            failures := sat16 (s.shelf sh).failures
            consecutive := (s.shelf sh).consecutive + 1 }
          else { s.shelf sh with
            failures := sat16 (s.shelf sh).failures, consecutive := 3, up := false
            probeAt := some (s.now + 30000) }) ∧
        (∀ n, n ≠ sh → u.shelf n = s.shelf n) ∧
        u.lamp b = { s.lamp b with
          state := .failed, failReason := some .noAnswer, confirmed := none, sent := none
          expiry := none } ∧
        (∀ c, c ≠ b → u.lamp c = s.lamp c) ∧
        u.link = (if (s.shelf sh).consecutive < 2 then
            s.link.raise .lampFail [b2 b, b1 sh, b1 o.station, b1 0, b1 1, b1 o.cadence.code]
          else (s.link.raise .lampFail [b2 b, b1 sh, b1 o.station, b1 0, b1 1,
            b1 o.cadence.code]).raise .shelfState [b1 sh, b1 1, b1 0, b1 3]) ∧
        { u.line with orders := s.line.orders, resends := s.line.resends,
                      shelves := s.line.shelves } = s.line ∧
        { u with lamps := s.lamps, line := s.line, link := s.link } = s) ∧
      (o.probe = true → ∃ u : State,
        exec (.ackTimerExpiry sh) s = .next u.downNext ∧
        u.line.orders = s.line.orders.filter (fun o => o.shelf != sh) ∧
        u.shelf sh = { s.shelf sh with failures := sat16 (s.shelf sh).failures } ∧
        (∀ n, n ≠ sh → u.shelf n = s.shelf n) ∧
        u.lamp b = { s.lamp b with
          state := .queued, retries := 0, failReason := none, expiry := none, sent := none } ∧
        (∀ c, c ≠ b → u.lamp c = s.lamp c) ∧
        u.lampQueue = s.lampQueue ++ [b] ∧
        { u.line with orders := s.line.orders, resends := s.line.resends,
                      shelves := s.line.shelves } = s.line ∧
        { u with lamps := s.lamps, lampQueue := s.lampQueue, line := s.line } = s)) ∧
    ((s.shelf sh).probeAt = none → exec (.probeTimerExpiry sh) s = .next s) ∧
    ((s.shelf sh).probeAt ≠ none → ∃ u : State,
      u.shelf sh = { s.shelf sh with probeAt := some (s.now + 30000) } ∧
      (∀ n, n ≠ sh → u.shelf n = s.shelf n) ∧
      { u.line with probesDue := s.line.probesDue, shelves := s.line.shelves } = s.line ∧
      { u with line := s.line } = s ∧
      ((s.shelf sh).pausedUntil ≠ none ∨
          (∀ b ∈ s.lampQueue, ∀ st, (s.lamp b).station ≠ some (sh, st)) →
        exec (.probeTimerExpiry sh) s = .next u ∧ u.line.probesDue = s.line.probesDue) ∧
      ((s.shelf sh).pausedUntil = none →
          (∃ b ∈ s.lampQueue, ∃ st, (s.lamp b).station = some (sh, st)) →
        exec (.probeTimerExpiry sh) s = .next u.downNext ∧
        u.line.probesDue = if sh ∈ s.line.probesDue then s.line.probesDue
          else s.line.probesDue ++ [sh])) ∧
    ((s.shelf sh).pausedUntil = none → exec (.pauseExpiry sh) s = .next s) ∧
    ((s.shelf sh).pausedUntil ≠ none → exec (.pauseExpiry sh) s = .next (State.downNext
      { s with line := { s.line with
        shelves := s.line.shelves.write Shelf.cold sh { s.shelf sh with pausedUntil := none } } }))

/-- R171, R173, R176: an acknowledgment that matches no order in flight is a stray. One that matches
frees the slot and the consecutive failures become 0; DONE confirms the sent cadence, and the record
settles, or is queued again where its wanted cadence is another; NO_STATION and LAMP_FAULT fail the
record with LAMP_FAIL; an order whose box is gone changes no record. An answer to a probe brings the
shelf UP with SHELF_STATE, then acts on the record of its box, and then the shelf's FAILED records join
the queue. -/
def Obligations.ShelfAnswersActOnRecords : Prop :=
  ∀ (s : State) (sh n : Nat) (i : Instr) (why : Option FailReason), 1 ≤ sh → sh ≤ 64 →
    (i = .ackDone sh n ∧ why = none ∨ i = .ackNoStation sh n ∧ why = some .noStation ∨
      i = .ackLampFault sh n ∧ why = some .lampFault) →
    ((∀ o, s.line.orderOf sh = some o → o.number ≠ n) →
      exec i s = .next { s with line := { s.line with
        shelves := s.line.shelves.write Shelf.cold sh
          { s.shelf sh with strays := sat16 (s.shelf sh).strays } } }) ∧
    (∀ o b, s.line.orderOf sh = some o → o.number = n → o.probe = false → o.box = some b →
      ∃ u : State, exec i s = .next u.downNext ∧
        u.line.orders = s.line.orders.filter (fun o => o.shelf != sh) ∧
        u.line.resends = s.line.resends.filter (fun k => k != sh) ∧
        u.shelf sh = { s.shelf sh with consecutive := 0 } ∧
        (∀ k, k ≠ sh → u.shelf k = s.shelf k) ∧
        (why = none → (s.lamp b).sent = some (s.lamp b).wanted →
          u.lamp b = { s.lamp b with
            confirmed := (s.lamp b).sent, sent := none, state := .settled } ∧
          u.lampQueue = s.lampQueue ∧ u.link = s.link) ∧
        (why = none → (s.lamp b).sent ≠ some (s.lamp b).wanted →
          u.lamp b = { s.lamp b with
            confirmed := (s.lamp b).sent, sent := none, state := .queued, retries := 0
            failReason := none, expiry := none } ∧
          u.lampQueue = s.lampQueue ++ [b] ∧ u.link = s.link) ∧
        (∀ f, why = some f →
          u.lamp b = { s.lamp b with
            state := .failed, failReason := some f, confirmed := none, sent := none
            expiry := none } ∧
          u.lampQueue = s.lampQueue ∧
          u.link = s.link.raise .lampFail
            [b2 b, b1 sh, b1 o.station, b1 f.code, b1 1, b1 o.cadence.code]) ∧
        (∀ c, c ≠ b → u.lamp c = s.lamp c) ∧
        { u.line with orders := s.line.orders, resends := s.line.resends,
                      shelves := s.line.shelves } = s.line ∧
        { u with lamps := s.lamps, lampQueue := s.lampQueue, line := s.line,
                 link := s.link } = s) ∧
    (∀ o, s.line.orderOf sh = some o → o.number = n → o.probe = false → o.box = none →
      ∃ u : State, exec i s = .next u.downNext ∧
        u.line.orders = s.line.orders.filter (fun o => o.shelf != sh) ∧
        u.line.resends = s.line.resends.filter (fun k => k != sh) ∧
        u.shelf sh = { s.shelf sh with consecutive := 0 } ∧
        (∀ k, k ≠ sh → u.shelf k = s.shelf k) ∧
        { u.line with orders := s.line.orders, resends := s.line.resends,
                      shelves := s.line.shelves } = s.line ∧
        { u with line := s.line } = s) ∧
    (∀ o b, s.canonical → s.line.orderOf sh = some o → o.number = n → o.probe = true →
      o.box = some b → (s.lamp b).station = some (sh, o.station) →
      ∃ u : State, exec i s = .next u.downNext ∧
        u.line.orders = s.line.orders.filter (fun o => o.shelf != sh) ∧
        u.line.resends = s.line.resends.filter (fun k => k != sh) ∧
        u.line.probesDue = s.line.probesDue.filter (fun k => k != sh) ∧
        u.shelf sh = { s.shelf sh with up := true, consecutive := 0, probeAt := none } ∧
        (∀ k, k ≠ sh → u.shelf k = s.shelf k) ∧
        (why = none → (s.lamp b).sent = some (s.lamp b).wanted →
          u.lamp b = { s.lamp b with
            confirmed := (s.lamp b).sent, sent := none, state := .settled } ∧
          u.lampQueue = s.lampQueue ++
            (s.mappedTo sh).filter (fun a => a != b && (s.lamp a).state == .failed) ∧
          u.link = s.link.raise .shelfState [b1 sh, b1 0, b1 1, b1 0]) ∧
        (why = none → (s.lamp b).sent ≠ some (s.lamp b).wanted →
          u.lamp b = { s.lamp b with
            confirmed := (s.lamp b).sent, sent := none, state := .queued, retries := 0
            failReason := none, expiry := none } ∧
          u.lampQueue = s.lampQueue ++ b ::
            (s.mappedTo sh).filter (fun a => a != b && (s.lamp a).state == .failed) ∧
          u.link = s.link.raise .shelfState [b1 sh, b1 0, b1 1, b1 0]) ∧
        (∀ f, why = some f →
          u.lamp b = { s.lamp b with
            confirmed := none, sent := none, state := .queued, retries := 0
            failReason := none, expiry := none } ∧
          u.lampQueue = s.lampQueue ++
            (s.mappedTo sh).filter (fun a => a == b || (s.lamp a).state == .failed) ∧
          u.link = (s.link.raise .shelfState [b1 sh, b1 0, b1 1, b1 0]).raise .lampFail
            [b2 b, b1 sh, b1 o.station, b1 f.code, b1 1, b1 o.cadence.code]) ∧
        (∀ a ∈ s.mappedTo sh, a ≠ b → (s.lamp a).state = .failed → u.lamp a = { s.lamp a with
          state := .queued, retries := 0, failReason := none, expiry := none, sent := none }) ∧
        (∀ a, a ≠ b → (s.lamp a).state ≠ .failed ∨ a ∉ s.mappedTo sh → u.lamp a = s.lamp a) ∧
        { u with lamps := s.lamps, lampQueue := s.lampQueue, line := s.line,
                 link := s.link } = s) ∧
    ∀ o, s.line.orderOf sh = some o → o.number = n → o.probe = true → o.box = none →
      ∃ u : State, exec i s = .next u.downNext ∧
        u.line.orders = s.line.orders.filter (fun o => o.shelf != sh) ∧
        u.shelf sh = { s.shelf sh with up := true, consecutive := 0, probeAt := none } ∧
        (∀ k, k ≠ sh → u.shelf k = s.shelf k) ∧
        u.link = s.link.raise .shelfState [b1 sh, b1 0, b1 1, b1 0] ∧
        u.lampQueue = s.lampQueue ++ (s.mappedTo sh).filter (fun b => (s.lamp b).state == .failed) ∧
        (∀ b ∈ s.mappedTo sh, (s.lamp b).state = .failed → u.lamp b = { s.lamp b with
          state := .queued, retries := 0, failReason := none, expiry := none, sent := none }) ∧
        (∀ b, (s.lamp b).state ≠ .failed → u.lamp b = s.lamp b) ∧
        { u with lamps := s.lamps, lampQueue := s.lampQueue, line := s.line, link := s.link } = s

/-- R169, R174, R175, R176: a shelf's frames are acknowledged. RESTART takes the shelf's number, ends
its pause and its failures, brings a DOWN shelf UP, frees its slot and queues every mapped record with
its confirmed cadence unknown. PAUSE sets or ends the pause and STATION_FAULT fails the record of the
station, with LAMP_FAIL; a repeated number is acknowledged and not acted on. A frame of nine bytes with
a bad sum, kind or shelf changes nothing; a byte timeout makes the receiver hunt. That up-line bytes
reach the receiver as UP_LINE_BAD_FRAME is the model's reading (assumption 36), and so is a frame number
above 7 (assumption 58). -/
def Obligations.ShelfFramesAct : Prop :=
  (∀ (s : State) (sh n : Nat) (acks : List (Nat × Nat)), 1 ≤ sh → sh ≤ 64 →
    acks = (if sh ∈ s.line.ackQueue.map Prod.fst then
      s.line.ackQueue.map (fun a => if a.1 = sh then (sh, n) else a)
      else s.line.ackQueue ++ [(sh, n)]) →
    (∃ u : State, exec (.shelfRestart sh n) s = .next u.downNext ∧ u.line.ackQueue = acks ∧
      u.shelf sh = { s.shelf sh with
        lastAccepted := some n, pausedUntil := none, consecutive := 0, up := true
        probeAt := if (s.shelf sh).up = true then (s.shelf sh).probeAt else none } ∧
      (∀ k, k ≠ sh → u.shelf k = s.shelf k) ∧
      u.line.orders = s.line.orders.filter (fun o => o.shelf != sh) ∧
      u.link = (if (s.shelf sh).up = true then s.link
        else s.link.raise .shelfState [b1 sh, b1 0, b1 2, b1 0]) ∧
      (∀ b ∈ s.mappedTo sh, (u.lamp b).confirmed = none ∧ (u.lamp b).state = .queued) ∧
      (∀ b, b ∉ s.mappedTo sh → u.lamp b = s.lamp b) ∧
      (s.canonical → u.lampQueue = s.lampQueue ++
        (s.mappedTo sh).filter (fun b => (s.lamp b).state != .queued)) ∧
      { u with lamps := s.lamps, lampQueue := s.lampQueue, line := s.line, link := s.link } = s) ∧
    ((s.shelf sh).lastAccepted = some n →
      (∀ time, exec (.shelfPause sh n time) s =
        .next (State.downNext { s with line := { s.line with ackQueue := acks } })) ∧
      ∀ st, exec (.stationFault sh n st) s =
        .next (State.downNext { s with line := { s.line with ackQueue := acks } })) ∧
    ((s.shelf sh).lastAccepted ≠ some n →
      (∀ time, exec (.shelfPause sh n time) s = .next (State.downNext
        { s with line := { s.line with
          ackQueue := acks
          shelves := s.line.shelves.write Shelf.cold sh { s.shelf sh with
            lastAccepted := some n
            pausedUntil := if time = 0 then none else some (s.now + time * 100) } } })) ∧
      ∀ st, (s.boxAt sh st = none → exec (.stationFault sh n st) s = .next (State.downNext
          { s with line := { s.line with
            ackQueue := acks
            shelves := s.line.shelves.write Shelf.cold sh
              { s.shelf sh with lastAccepted := some n } } })) ∧
        ∀ b, s.boxAt sh st = some b → ∃ u : State,
          exec (.stationFault sh n st) s = .next u.downNext ∧ u.line.ackQueue = acks ∧
          u.shelf sh = { s.shelf sh with lastAccepted := some n } ∧
          (∀ k, k ≠ sh → u.shelf k = s.shelf k) ∧
          u.lamp b = { s.lamp b with
            state := .failed, failReason := some .lampFault, confirmed := none, sent := none
            expiry := none } ∧
          (∀ c, c ≠ b → u.lamp c = s.lamp c) ∧
          u.lampQueue = (if (s.lamp b).state = .queued then s.lampQueue.erase b
            else s.lampQueue) ∧
          u.line.orders = (if (s.lamp b).state = .inFlight then
            s.line.orders.map (fun o => if o.box = some b then { o with box := none } else o)
            else s.line.orders) ∧
          u.link = s.link.raise .lampFail [b2 b, b1 sh, b1 st, b1 2, b1 0] ∧
          { u with lamps := s.lamps, lampQueue := s.lampQueue, line := s.line,
                   link := s.link } = s)) ∧
  (∀ (s : State) (bs : List Byte), s.line.receiver = .hunting → bs.length = 9 →
    (bs.drop 7 ≠ leBytes 2 (byteSum (bs.take 7)) ∨ (bs.getD 0 0).toNat = 0 ∨
      64 < (bs.getD 0 0).toNat ∨ (bs.getD 1 0).toNat ∉ [0x11, 0x12, 0x13, 0x21, 0x22, 0x23]) →
    exec (.upLineBadFrame (byteOf 0x5A :: bs)) s = .next s) ∧
  ∀ s : State, exec .upLineByteTimeout s =
    .next { s with line := { s.line with receiver := .hunting } }

/-! ## The whole module -/

/-- R93, R105, R108, R122, R151, R168, R169, R177, R178, R180: no step takes the module out of the
bounds that the rules set: at most one unsent reply and 64 unsent notices, 8 waiting frames, and those
only behind an unsent reply, STARTED enabled, 8 orders in flight and one for each shelf, 3 stacked levels, 16 captured frames, 8 jobs, and
the ranges of the clock and the sweep. -/
def Obligations.StepKeepsLimits : Prop :=
  ∀ s t : State, s.bounded → step s = .next t → t.bounded

/-- R1, R2, R158, R161, R162, R168: every step keeps the module's books: every block is in exactly one
of the free pool, the chain of one recording, DRAINING and RETIRED; a chain is as its record says; the
lamp queue holds exactly the QUEUED boxes, once each, exactly the IN_FLIGHT boxes have an order, and no
two boxes have one station. It keeps too the tables of the module in their one canonical form, which is
the model's own (assumption 10). -/
def Obligations.StepKeepsCanonicalForm : Prop :=
  (∀ s t : State, s.canonical → step s = .next t → t.canonical) ∧
  ∀ s t : State, s.canonical → s.bounded → s.booked → step s = .next t → t.booked

/-- R8, R12, R19, R22, R29, R31: every step keeps the books of the cache: no two lines hold one block,
a SEALED recording has no MODIFIED or WRITING line, the scheduler's queues and the operation in flight
name lines of their state, and a block that waits for a line has none. So the block of a write in flight
belongs to no SEALED recording. -/
def Obligations.StepKeepsCacheBooks : Prop :=
  (∀ s t : State, s.canonical → s.bounded → s.booked → HoldBooks s → CacheBooks s →
    step s = .next t → CacheBooks t) ∧
  ∀ s : State, CacheBooks s → s.writesUnsealed

/-- R16, R37, R130, R167, R168, R183: power applied to a module whose directory memory is lost, or
holds no signature, leaves the state that `State.reset` names, with the flash array as it was. That
reset stands for this cold start is the model's choice (assumption 1), and so are the idle down line and
the hunting up-line receiver of that state (assumption 64). The module right after reset is
within the bounds, in canonical form, with its books in order, and RUNNING with nothing waiting. -/
def Obligations.LostDirectoryStartsAsReset : Prop :=
  (∀ (kept : Bool) (s : State), (kept && s.dir.signature) = false →
    exec (.powerOnColdStart kept) s =
      .next { State.reset with flash := s.flash, pending := s.pending }) ∧
  State.reset.bounded ∧ State.reset.canonical ∧ State.reset.ready ∧ State.reset.booked ∧
    HoldBooks State.reset ∧ CacheBooks State.reset
end

