-- ==== Sys2Proof/Laws/Table.lean ====
section
/-! SUPPORT. The laws of a table: reading after writing, and the canonical form kept by every write. -/

namespace Sys2Proof.Machine

theorem rowFind_rowPut_same {α : Type} (rows : List (Nat × α)) (k : Nat) (v : α) :
    rowFind (rowPut rows k v) k = some v := by
  induction rows with
  | nil => simp [rowPut, rowFind]
  | cons r rest ih =>
    obtain ⟨a, w⟩ := r
    unfold rowPut
    split
    · simp [rowFind]
    · split
      · simp [rowFind]
      · next h => simp [rowFind, ih, Ne.symm h]

theorem rowFind_rowPut_other {α : Type} (rows : List (Nat × α)) {k j : Nat} (v : α) (h : j ≠ k) :
    rowFind (rowPut rows k v) j = rowFind rows j := by
  induction rows with
  | nil => simp [rowPut, rowFind, Ne.symm h]
  | cons r rest ih =>
    obtain ⟨a, w⟩ := r
    unfold rowPut
    split
    · simp [rowFind, Ne.symm h]
    · split
      · next e => subst e; simp [rowFind, Ne.symm h]
      · simp [rowFind, ih]

theorem rowFind_rowDrop_same {α : Type} (rows : List (Nat × α)) (k : Nat) :
    rowFind (rowDrop rows k) k = none := by
  induction rows with
  | nil => rfl
  | cons r rest ih =>
    obtain ⟨a, w⟩ := r
    simp only [rowDrop, List.filter_cons] at ih ⊢
    split
    · next h => simp only [bne_iff_ne, ne_eq] at h; simp [rowFind, h, ih]
    · exact ih

theorem rowFind_rowDrop_other {α : Type} (rows : List (Nat × α)) {k j : Nat} (h : j ≠ k) :
    rowFind (rowDrop rows k) j = rowFind rows j := by
  induction rows with
  | nil => rfl
  | cons r rest ih =>
    obtain ⟨a, w⟩ := r
    simp only [rowDrop, List.filter_cons] at ih ⊢
    split
    · simp [rowFind, ih]
    · next e =>
      have e : a = k := by simpa using e
      subst e
      simp [rowFind, Ne.symm h, ih]

@[simp] theorem Table.find_put_same {α : Type} (t : Table α) (k : Nat) (v : α) :
    (t.put k v).find k = some v := rowFind_rowPut_same t.rows k v

theorem Table.find_put_other {α : Type} (t : Table α) {k j : Nat} (v : α) (h : j ≠ k) :
    (t.put k v).find j = t.find j := rowFind_rowPut_other t.rows v h

@[simp] theorem Table.find_drop_same {α : Type} (t : Table α) (k : Nat) :
    (t.drop k).find k = none := rowFind_rowDrop_same t.rows k

theorem Table.find_drop_other {α : Type} (t : Table α) {k j : Nat} (h : j ≠ k) :
    (t.drop k).find j = t.find j := rowFind_rowDrop_other t.rows h

/-- A row reads as what was last written to it. -/
@[simp] theorem Table.read_write_same {α : Type} [DecidableEq α] (d : α) (t : Table α) (k : Nat)
    (v : α) : (t.write d k v).read d k = v := by
  unfold Table.write Table.read
  split <;> simp_all

/-- A write leaves every other row as it read. -/
theorem Table.read_write_other {α : Type} [DecidableEq α] (d : α) (t : Table α) {k j : Nat} (v : α)
    (h : j ≠ k) : (t.write d k v).read d j = t.read d j := by
  unfold Table.write Table.read
  split
  · rw [Table.find_drop_other t h]
  · rw [Table.find_put_other t v h]

/-! ## The canonical form -/

theorem rowsRise_iff_sorted (ks : List Nat) : rowsRise ks = true ↔ ks.Pairwise (· < ·) := by
  induction ks with
  | nil => simp [rowsRise]
  | cons a rest ih =>
    cases rest with
    | nil => simp [rowsRise]
    | cons b more =>
      simp only [rowsRise, Bool.and_eq_true, decide_eq_true_eq, ih]
      constructor
      · rintro ⟨hab, h⟩
        refine List.pairwise_cons.2 ⟨fun c hc => ?_, h⟩
        rcases List.mem_cons.1 hc with rfl | hc
        · exact hab
        · exact lt_trans hab ((List.pairwise_cons.1 h).1 c hc)
      · intro h
        exact ⟨(List.pairwise_cons.1 h).1 b (by simp), (List.pairwise_cons.1 h).2⟩

theorem rowPut_keys {α : Type} (rows : List (Nat × α)) (k : Nat) (v : α) (j : Nat)
    (h : j ∈ (rowPut rows k v).map Prod.fst) : j = k ∨ j ∈ rows.map Prod.fst := by
  induction rows with
  | nil => simpa [rowPut] using h
  | cons r rest ih =>
    obtain ⟨a, w⟩ := r
    unfold rowPut at h
    split at h
    · simpa using h
    · split at h
      · next e => subst e; simp at h; simp; tauto
      · simp only [List.map_cons, List.mem_cons] at h ⊢
        rcases h with rfl | h
        · simp
        · rcases ih h with rfl | h
          · simp
          · exact .inr (.inr h)

theorem rowPut_sorted {α : Type} (rows : List (Nat × α)) (k : Nat) (v : α)
    (h : (rows.map Prod.fst).Pairwise (· < ·)) :
    ((rowPut rows k v).map Prod.fst).Pairwise (· < ·) := by
  induction rows with
  | nil => simp [rowPut]
  | cons r rest ih =>
    obtain ⟨a, w⟩ := r
    obtain ⟨ha, hr⟩ := List.pairwise_cons.1 h
    unfold rowPut
    split
    · next hka =>
      refine List.pairwise_cons.2 ⟨fun j hj => ?_, h⟩
      simp only [List.map_cons, List.mem_cons] at hj
      rcases hj with rfl | hj
      · exact hka
      · exact lt_trans hka (ha j hj)
    · split
      · next e => subst e; exact h
      · next h1 h2 =>
        refine List.pairwise_cons.2 ⟨fun j hj => ?_, ih hr⟩
        rcases rowPut_keys rest k v j hj with rfl | hj
        · simp only; omega
        · exact ha j hj

theorem rowDrop_sorted {α : Type} (rows : List (Nat × α)) (k : Nat)
    (h : (rows.map Prod.fst).Pairwise (· < ·)) :
    ((rowDrop rows k).map Prod.fst).Pairwise (· < ·) :=
  List.Pairwise.sublist (List.Sublist.map Prod.fst List.filter_sublist) h

theorem Table.sorted_iff {α : Type} (t : Table α) :
    t.sorted = true ↔ (t.rows.map Prod.fst).Pairwise (· < ·) := rowsRise_iff_sorted _

theorem Table.put_sorted {α : Type} (t : Table α) (k : Nat) (v : α) (h : t.sorted = true) :
    (t.put k v).sorted = true :=
  (Table.sorted_iff _).2 (rowPut_sorted _ k v ((Table.sorted_iff t).1 h))

theorem Table.drop_sorted {α : Type} (t : Table α) (k : Nat) (h : t.sorted = true) :
    (t.drop k).sorted = true :=
  (Table.sorted_iff _).2 (rowDrop_sorted _ k ((Table.sorted_iff t).1 h))

theorem rowPut_mem {α : Type} (rows : List (Nat × α)) (k : Nat) (v : α) (r : Nat × α)
    (h : r ∈ rowPut rows k v) : r = (k, v) ∨ r ∈ rows := by
  induction rows with
  | nil => simpa [rowPut] using h
  | cons x rest ih =>
    obtain ⟨a, w⟩ := x
    unfold rowPut at h
    split at h
    · simpa using h
    · split at h
      · rcases List.mem_cons.1 h with h | h
        · exact .inl h
        · exact .inr (List.mem_cons_of_mem _ h)
      · rcases List.mem_cons.1 h with h | h
        · exact .inr (by simp [h])
        · rcases ih h with h | h
          · exact .inl h
          · exact .inr (List.mem_cons_of_mem _ h)

/-- A write keeps the canonical form: numbers strictly rising, no row equal to the default. -/
theorem Table.write_wf {α : Type} [DecidableEq α] (d : α) (t : Table α) (k : Nat) (v : α)
    (h : t.wf d = true) : (t.write d k v).wf d = true := by
  simp only [Table.wf, Bool.and_eq_true, List.all_eq_true, decide_eq_true_eq] at h ⊢
  unfold Table.write
  split
  · exact ⟨Table.drop_sorted t k h.1, fun r hr => h.2 r (List.mem_filter.1 hr).1⟩
  · next hv =>
    refine ⟨Table.put_sorted t k v h.1, fun r hr => ?_⟩
    rcases rowPut_mem t.rows k v r hr with rfl | hr
    · exact hv
    · exact h.2 r hr

theorem Table.empty_wf {α : Type} [DecidableEq α] (d : α) : (⟨[]⟩ : Table α).wf d = true := rfl

/-! ## Listed rows -/

theorem rowFind_mem {α : Type} {rows : List (Nat × α)} {k : Nat} {v : α}
    (h : rowFind rows k = some v) : (k, v) ∈ rows := by
  induction rows with
  | nil => cases h
  | cons r rest ih =>
    obtain ⟨a, w⟩ := r
    unfold rowFind at h
    split at h
    · next e => cases h; subst e; simp
    · exact List.mem_cons_of_mem _ (ih h)

theorem rowFind_of_mem {α : Type} {rows : List (Nat × α)} {k : Nat} {v : α}
    (hs : (rows.map Prod.fst).Pairwise (· < ·)) (h : (k, v) ∈ rows) : rowFind rows k = some v := by
  induction rows with
  | nil => cases h
  | cons r rest ih =>
    obtain ⟨a, w⟩ := r
    obtain ⟨ha, hr⟩ := List.pairwise_cons.1 hs
    unfold rowFind
    rcases List.mem_cons.1 h with e | m
    · cases e; simp
    · have : a < k := ha k (List.mem_map.2 ⟨_, m, rfl⟩)
      rw [if_neg (Nat.ne_of_lt this)]
      exact ih hr m

/-- The rows that a selection of a sorted table names. -/
theorem Table.mem_select {α : Type} {t : Table α} {p : α → Bool} (hs : t.sorted = true) (k : Nat) :
    k ∈ t.select p ↔ ∃ v, t.find k = some v ∧ p v = true := by
  have hs := (Table.sorted_iff t).1 hs
  simp only [Table.select, List.mem_map, List.mem_filter]
  constructor
  · rintro ⟨⟨a, v⟩, ⟨m, g⟩, rfl⟩
    exact ⟨v, rowFind_of_mem hs m, g⟩
  · rintro ⟨v, f, g⟩
    exact ⟨(k, v), ⟨rowFind_mem f, g⟩, rfl⟩

theorem Table.select_nodup {α : Type} {t : Table α} (p : α → Bool) (hs : t.sorted = true) :
    (t.select p).Nodup :=
  (List.Pairwise.sublist (List.Sublist.map _ List.filter_sublist) ((Table.sorted_iff t).1 hs)).imp
    fun h => Nat.ne_of_lt h

/-- The first row that satisfies a test. -/
theorem Table.search_some {α : Type} {t : Table α} {p : α → Bool} {k : Nat} (hs : t.sorted = true)
    (h : t.search p = some k) : ∃ v, t.find k = some v ∧ p v = true := by
  simp only [Table.search, Option.map_eq_some_iff] at h
  obtain ⟨⟨a, v⟩, e, rfl⟩ := h
  exact ⟨v, rowFind_of_mem ((Table.sorted_iff t).1 hs) (List.mem_of_find?_eq_some e),
    (List.find?_some (p := fun r : Nat × α => p r.2) e)⟩

/-- No listed row satisfies a test that finds none. -/
theorem Table.search_none {α : Type} {t : Table α} {p : α → Bool} (h : t.search p = none) {k : Nat}
    {v : α} (hf : t.find k = some v) : p v = false := by
  simp only [Table.search, Option.map_eq_none_iff, List.find?_eq_none] at h
  simpa using h _ (rowFind_mem hf)

end Sys2Proof.Machine
end

