-- ==== Sys2Proof/Laws/State.lean ====
section
/-! SUPPORT. One lemma per field per writer of State: what each writer changes, and that it leaves
every other field alone; and reading a record after writing it. -/

namespace Sys2Proof.Machine

variable (s : State)

/-! ## onDir -/

@[simp] theorem State.onDir_module (f : Directory → Directory) : (s.onDir f).module = s.module := rfl
@[simp] theorem State.onDir_now (f : Directory → Directory) : (s.onDir f).now = s.now := rfl
@[simp] theorem State.onDir_dir (f : Directory → Directory) : (s.onDir f).dir = f s.dir := rfl
@[simp] theorem State.onDir_flash (f : Directory → Directory) : (s.onDir f).flash = s.flash := rfl
@[simp] theorem State.onDir_cache (f : Directory → Directory) : (s.onDir f).cache = s.cache := rfl
@[simp] theorem State.onDir_ports (f : Directory → Directory) : (s.onDir f).ports = s.ports := rfl
@[simp] theorem State.onDir_transmit (f : Directory → Directory) : (s.onDir f).transmit = s.transmit := rfl
@[simp] theorem State.onDir_jobs (f : Directory → Directory) : (s.onDir f).jobs = s.jobs := rfl
@[simp] theorem State.onDir_retention (f : Directory → Directory) : (s.onDir f).retention = s.retention := rfl
@[simp] theorem State.onDir_lamps (f : Directory → Directory) : (s.onDir f).lamps = s.lamps := rfl
@[simp] theorem State.onDir_lampQueue (f : Directory → Directory) : (s.onDir f).lampQueue = s.lampQueue := rfl
@[simp] theorem State.onDir_line (f : Directory → Directory) : (s.onDir f).line = s.line := rfl
@[simp] theorem State.onDir_link (f : Directory → Directory) : (s.onDir f).link = s.link := rfl
@[simp] theorem State.onDir_pending (f : Directory → Directory) : (s.onDir f).pending = s.pending := rfl

/-! ## onCache -/

@[simp] theorem State.onCache_module (f : Cache → Cache) : (s.onCache f).module = s.module := rfl
@[simp] theorem State.onCache_now (f : Cache → Cache) : (s.onCache f).now = s.now := rfl
@[simp] theorem State.onCache_dir (f : Cache → Cache) : (s.onCache f).dir = s.dir := rfl
@[simp] theorem State.onCache_flash (f : Cache → Cache) : (s.onCache f).flash = s.flash := rfl
@[simp] theorem State.onCache_cache (f : Cache → Cache) : (s.onCache f).cache = f s.cache := rfl
@[simp] theorem State.onCache_ports (f : Cache → Cache) : (s.onCache f).ports = s.ports := rfl
@[simp] theorem State.onCache_transmit (f : Cache → Cache) : (s.onCache f).transmit = s.transmit := rfl
@[simp] theorem State.onCache_jobs (f : Cache → Cache) : (s.onCache f).jobs = s.jobs := rfl
@[simp] theorem State.onCache_retention (f : Cache → Cache) : (s.onCache f).retention = s.retention := rfl
@[simp] theorem State.onCache_lamps (f : Cache → Cache) : (s.onCache f).lamps = s.lamps := rfl
@[simp] theorem State.onCache_lampQueue (f : Cache → Cache) : (s.onCache f).lampQueue = s.lampQueue := rfl
@[simp] theorem State.onCache_line (f : Cache → Cache) : (s.onCache f).line = s.line := rfl
@[simp] theorem State.onCache_link (f : Cache → Cache) : (s.onCache f).link = s.link := rfl
@[simp] theorem State.onCache_pending (f : Cache → Cache) : (s.onCache f).pending = s.pending := rfl

/-! ## onLink -/

@[simp] theorem State.onLink_module (f : Link → Link) : (s.onLink f).module = s.module := rfl
@[simp] theorem State.onLink_now (f : Link → Link) : (s.onLink f).now = s.now := rfl
@[simp] theorem State.onLink_dir (f : Link → Link) : (s.onLink f).dir = s.dir := rfl
@[simp] theorem State.onLink_flash (f : Link → Link) : (s.onLink f).flash = s.flash := rfl
@[simp] theorem State.onLink_cache (f : Link → Link) : (s.onLink f).cache = s.cache := rfl
@[simp] theorem State.onLink_ports (f : Link → Link) : (s.onLink f).ports = s.ports := rfl
@[simp] theorem State.onLink_transmit (f : Link → Link) : (s.onLink f).transmit = s.transmit := rfl
@[simp] theorem State.onLink_jobs (f : Link → Link) : (s.onLink f).jobs = s.jobs := rfl
@[simp] theorem State.onLink_retention (f : Link → Link) : (s.onLink f).retention = s.retention := rfl
@[simp] theorem State.onLink_lamps (f : Link → Link) : (s.onLink f).lamps = s.lamps := rfl
@[simp] theorem State.onLink_lampQueue (f : Link → Link) : (s.onLink f).lampQueue = s.lampQueue := rfl
@[simp] theorem State.onLink_line (f : Link → Link) : (s.onLink f).line = s.line := rfl
@[simp] theorem State.onLink_link (f : Link → Link) : (s.onLink f).link = f s.link := rfl
@[simp] theorem State.onLink_pending (f : Link → Link) : (s.onLink f).pending = s.pending := rfl

/-! ## onLine -/

@[simp] theorem State.onLine_module (f : LampLine → LampLine) : (s.onLine f).module = s.module := rfl
@[simp] theorem State.onLine_now (f : LampLine → LampLine) : (s.onLine f).now = s.now := rfl
@[simp] theorem State.onLine_dir (f : LampLine → LampLine) : (s.onLine f).dir = s.dir := rfl
@[simp] theorem State.onLine_flash (f : LampLine → LampLine) : (s.onLine f).flash = s.flash := rfl
@[simp] theorem State.onLine_cache (f : LampLine → LampLine) : (s.onLine f).cache = s.cache := rfl
@[simp] theorem State.onLine_ports (f : LampLine → LampLine) : (s.onLine f).ports = s.ports := rfl
@[simp] theorem State.onLine_transmit (f : LampLine → LampLine) : (s.onLine f).transmit = s.transmit := rfl
@[simp] theorem State.onLine_jobs (f : LampLine → LampLine) : (s.onLine f).jobs = s.jobs := rfl
@[simp] theorem State.onLine_retention (f : LampLine → LampLine) : (s.onLine f).retention = s.retention := rfl
@[simp] theorem State.onLine_lamps (f : LampLine → LampLine) : (s.onLine f).lamps = s.lamps := rfl
@[simp] theorem State.onLine_lampQueue (f : LampLine → LampLine) : (s.onLine f).lampQueue = s.lampQueue := rfl
@[simp] theorem State.onLine_line (f : LampLine → LampLine) : (s.onLine f).line = f s.line := rfl
@[simp] theorem State.onLine_link (f : LampLine → LampLine) : (s.onLine f).link = s.link := rfl
@[simp] theorem State.onLine_pending (f : LampLine → LampLine) : (s.onLine f).pending = s.pending := rfl

/-! ## onRetention -/

@[simp] theorem State.onRetention_module (f : Retention → Retention) : (s.onRetention f).module = s.module := rfl
@[simp] theorem State.onRetention_now (f : Retention → Retention) : (s.onRetention f).now = s.now := rfl
@[simp] theorem State.onRetention_dir (f : Retention → Retention) : (s.onRetention f).dir = s.dir := rfl
@[simp] theorem State.onRetention_flash (f : Retention → Retention) : (s.onRetention f).flash = s.flash := rfl
@[simp] theorem State.onRetention_cache (f : Retention → Retention) : (s.onRetention f).cache = s.cache := rfl
@[simp] theorem State.onRetention_ports (f : Retention → Retention) : (s.onRetention f).ports = s.ports := rfl
@[simp] theorem State.onRetention_transmit (f : Retention → Retention) : (s.onRetention f).transmit = s.transmit := rfl
@[simp] theorem State.onRetention_jobs (f : Retention → Retention) : (s.onRetention f).jobs = s.jobs := rfl
@[simp] theorem State.onRetention_retention (f : Retention → Retention) : (s.onRetention f).retention = f s.retention := rfl
@[simp] theorem State.onRetention_lamps (f : Retention → Retention) : (s.onRetention f).lamps = s.lamps := rfl
@[simp] theorem State.onRetention_lampQueue (f : Retention → Retention) : (s.onRetention f).lampQueue = s.lampQueue := rfl
@[simp] theorem State.onRetention_line (f : Retention → Retention) : (s.onRetention f).line = s.line := rfl
@[simp] theorem State.onRetention_link (f : Retention → Retention) : (s.onRetention f).link = s.link := rfl
@[simp] theorem State.onRetention_pending (f : Retention → Retention) : (s.onRetention f).pending = s.pending := rfl

/-! ## onJobs -/

@[simp] theorem State.onJobs_module (f : List Job → List Job) : (s.onJobs f).module = s.module := rfl
@[simp] theorem State.onJobs_now (f : List Job → List Job) : (s.onJobs f).now = s.now := rfl
@[simp] theorem State.onJobs_dir (f : List Job → List Job) : (s.onJobs f).dir = s.dir := rfl
@[simp] theorem State.onJobs_flash (f : List Job → List Job) : (s.onJobs f).flash = s.flash := rfl
@[simp] theorem State.onJobs_cache (f : List Job → List Job) : (s.onJobs f).cache = s.cache := rfl
@[simp] theorem State.onJobs_ports (f : List Job → List Job) : (s.onJobs f).ports = s.ports := rfl
@[simp] theorem State.onJobs_transmit (f : List Job → List Job) : (s.onJobs f).transmit = s.transmit := rfl
@[simp] theorem State.onJobs_jobs (f : List Job → List Job) : (s.onJobs f).jobs = f s.jobs := rfl
@[simp] theorem State.onJobs_retention (f : List Job → List Job) : (s.onJobs f).retention = s.retention := rfl
@[simp] theorem State.onJobs_lamps (f : List Job → List Job) : (s.onJobs f).lamps = s.lamps := rfl
@[simp] theorem State.onJobs_lampQueue (f : List Job → List Job) : (s.onJobs f).lampQueue = s.lampQueue := rfl
@[simp] theorem State.onJobs_line (f : List Job → List Job) : (s.onJobs f).line = s.line := rfl
@[simp] theorem State.onJobs_link (f : List Job → List Job) : (s.onJobs f).link = s.link := rfl
@[simp] theorem State.onJobs_pending (f : List Job → List Job) : (s.onJobs f).pending = s.pending := rfl

/-! ## onLampQueue -/

@[simp] theorem State.onLampQueue_module (f : List Nat → List Nat) : (s.onLampQueue f).module = s.module := rfl
@[simp] theorem State.onLampQueue_now (f : List Nat → List Nat) : (s.onLampQueue f).now = s.now := rfl
@[simp] theorem State.onLampQueue_dir (f : List Nat → List Nat) : (s.onLampQueue f).dir = s.dir := rfl
@[simp] theorem State.onLampQueue_flash (f : List Nat → List Nat) : (s.onLampQueue f).flash = s.flash := rfl
@[simp] theorem State.onLampQueue_cache (f : List Nat → List Nat) : (s.onLampQueue f).cache = s.cache := rfl
@[simp] theorem State.onLampQueue_ports (f : List Nat → List Nat) : (s.onLampQueue f).ports = s.ports := rfl
@[simp] theorem State.onLampQueue_transmit (f : List Nat → List Nat) : (s.onLampQueue f).transmit = s.transmit := rfl
@[simp] theorem State.onLampQueue_jobs (f : List Nat → List Nat) : (s.onLampQueue f).jobs = s.jobs := rfl
@[simp] theorem State.onLampQueue_retention (f : List Nat → List Nat) : (s.onLampQueue f).retention = s.retention := rfl
@[simp] theorem State.onLampQueue_lamps (f : List Nat → List Nat) : (s.onLampQueue f).lamps = s.lamps := rfl
@[simp] theorem State.onLampQueue_lampQueue (f : List Nat → List Nat) : (s.onLampQueue f).lampQueue = f s.lampQueue := rfl
@[simp] theorem State.onLampQueue_line (f : List Nat → List Nat) : (s.onLampQueue f).line = s.line := rfl
@[simp] theorem State.onLampQueue_link (f : List Nat → List Nat) : (s.onLampQueue f).link = s.link := rfl
@[simp] theorem State.onLampQueue_pending (f : List Nat → List Nat) : (s.onLampQueue f).pending = s.pending := rfl

/-! ## onSettings -/

@[simp] theorem State.onSettings_module (f : Settings → Settings) : (s.onSettings f).module = s.module := rfl
@[simp] theorem State.onSettings_now (f : Settings → Settings) : (s.onSettings f).now = s.now := rfl
@[simp] theorem State.onSettings_dir (f : Settings → Settings) : (s.onSettings f).dir = { s.dir with settings := f s.dir.settings } := rfl
@[simp] theorem State.onSettings_flash (f : Settings → Settings) : (s.onSettings f).flash = s.flash := rfl
@[simp] theorem State.onSettings_cache (f : Settings → Settings) : (s.onSettings f).cache = s.cache := rfl
@[simp] theorem State.onSettings_ports (f : Settings → Settings) : (s.onSettings f).ports = s.ports := rfl
@[simp] theorem State.onSettings_transmit (f : Settings → Settings) : (s.onSettings f).transmit = s.transmit := rfl
@[simp] theorem State.onSettings_jobs (f : Settings → Settings) : (s.onSettings f).jobs = s.jobs := rfl
@[simp] theorem State.onSettings_retention (f : Settings → Settings) : (s.onSettings f).retention = s.retention := rfl
@[simp] theorem State.onSettings_lamps (f : Settings → Settings) : (s.onSettings f).lamps = s.lamps := rfl
@[simp] theorem State.onSettings_lampQueue (f : Settings → Settings) : (s.onSettings f).lampQueue = s.lampQueue := rfl
@[simp] theorem State.onSettings_line (f : Settings → Settings) : (s.onSettings f).line = s.line := rfl
@[simp] theorem State.onSettings_link (f : Settings → Settings) : (s.onSettings f).link = s.link := rfl
@[simp] theorem State.onSettings_pending (f : Settings → Settings) : (s.onSettings f).pending = s.pending := rfl

/-! ## setRecording -/

@[simp] theorem State.setRecording_module (r : Nat) (v : Recording) : (s.setRecording r v).module = s.module := rfl
@[simp] theorem State.setRecording_now (r : Nat) (v : Recording) : (s.setRecording r v).now = s.now := rfl
@[simp] theorem State.setRecording_dir (r : Nat) (v : Recording) : (s.setRecording r v).dir = { s.dir with recordings := s.dir.recordings.put r v } := rfl
@[simp] theorem State.setRecording_flash (r : Nat) (v : Recording) : (s.setRecording r v).flash = s.flash := rfl
@[simp] theorem State.setRecording_cache (r : Nat) (v : Recording) : (s.setRecording r v).cache = s.cache := rfl
@[simp] theorem State.setRecording_ports (r : Nat) (v : Recording) : (s.setRecording r v).ports = s.ports := rfl
@[simp] theorem State.setRecording_transmit (r : Nat) (v : Recording) : (s.setRecording r v).transmit = s.transmit := rfl
@[simp] theorem State.setRecording_jobs (r : Nat) (v : Recording) : (s.setRecording r v).jobs = s.jobs := rfl
@[simp] theorem State.setRecording_retention (r : Nat) (v : Recording) : (s.setRecording r v).retention = s.retention := rfl
@[simp] theorem State.setRecording_lamps (r : Nat) (v : Recording) : (s.setRecording r v).lamps = s.lamps := rfl
@[simp] theorem State.setRecording_lampQueue (r : Nat) (v : Recording) : (s.setRecording r v).lampQueue = s.lampQueue := rfl
@[simp] theorem State.setRecording_line (r : Nat) (v : Recording) : (s.setRecording r v).line = s.line := rfl
@[simp] theorem State.setRecording_link (r : Nat) (v : Recording) : (s.setRecording r v).link = s.link := rfl
@[simp] theorem State.setRecording_pending (r : Nat) (v : Recording) : (s.setRecording r v).pending = s.pending := rfl

/-! ## emptyRecording -/

@[simp] theorem State.emptyRecording_module (r : Nat) : (s.emptyRecording r).module = s.module := rfl
@[simp] theorem State.emptyRecording_now (r : Nat) : (s.emptyRecording r).now = s.now := rfl
@[simp] theorem State.emptyRecording_dir (r : Nat) : (s.emptyRecording r).dir = { s.dir with recordings := s.dir.recordings.drop r } := rfl
@[simp] theorem State.emptyRecording_flash (r : Nat) : (s.emptyRecording r).flash = s.flash := rfl
@[simp] theorem State.emptyRecording_cache (r : Nat) : (s.emptyRecording r).cache = s.cache := rfl
@[simp] theorem State.emptyRecording_ports (r : Nat) : (s.emptyRecording r).ports = s.ports := rfl
@[simp] theorem State.emptyRecording_transmit (r : Nat) : (s.emptyRecording r).transmit = s.transmit := rfl
@[simp] theorem State.emptyRecording_jobs (r : Nat) : (s.emptyRecording r).jobs = s.jobs := rfl
@[simp] theorem State.emptyRecording_retention (r : Nat) : (s.emptyRecording r).retention = s.retention := rfl
@[simp] theorem State.emptyRecording_lamps (r : Nat) : (s.emptyRecording r).lamps = s.lamps := rfl
@[simp] theorem State.emptyRecording_lampQueue (r : Nat) : (s.emptyRecording r).lampQueue = s.lampQueue := rfl
@[simp] theorem State.emptyRecording_line (r : Nat) : (s.emptyRecording r).line = s.line := rfl
@[simp] theorem State.emptyRecording_link (r : Nat) : (s.emptyRecording r).link = s.link := rfl
@[simp] theorem State.emptyRecording_pending (r : Nat) : (s.emptyRecording r).pending = s.pending := rfl

/-! ## setBox -/

@[simp] theorem State.setBox_module (b : Nat) (v : Box) : (s.setBox b v).module = s.module := rfl
@[simp] theorem State.setBox_now (b : Nat) (v : Box) : (s.setBox b v).now = s.now := rfl
@[simp] theorem State.setBox_dir (b : Nat) (v : Box) : (s.setBox b v).dir = { s.dir with boxes := s.dir.boxes.write Box.unassigned b v } := rfl
@[simp] theorem State.setBox_flash (b : Nat) (v : Box) : (s.setBox b v).flash = s.flash := rfl
@[simp] theorem State.setBox_cache (b : Nat) (v : Box) : (s.setBox b v).cache = s.cache := rfl
@[simp] theorem State.setBox_ports (b : Nat) (v : Box) : (s.setBox b v).ports = s.ports := rfl
@[simp] theorem State.setBox_transmit (b : Nat) (v : Box) : (s.setBox b v).transmit = s.transmit := rfl
@[simp] theorem State.setBox_jobs (b : Nat) (v : Box) : (s.setBox b v).jobs = s.jobs := rfl
@[simp] theorem State.setBox_retention (b : Nat) (v : Box) : (s.setBox b v).retention = s.retention := rfl
@[simp] theorem State.setBox_lamps (b : Nat) (v : Box) : (s.setBox b v).lamps = s.lamps := rfl
@[simp] theorem State.setBox_lampQueue (b : Nat) (v : Box) : (s.setBox b v).lampQueue = s.lampQueue := rfl
@[simp] theorem State.setBox_line (b : Nat) (v : Box) : (s.setBox b v).line = s.line := rfl
@[simp] theorem State.setBox_link (b : Nat) (v : Box) : (s.setBox b v).link = s.link := rfl
@[simp] theorem State.setBox_pending (b : Nat) (v : Box) : (s.setBox b v).pending = s.pending := rfl

/-! ## onBox -/

@[simp] theorem State.onBox_module (b : Nat) (f : Box → Box) : (s.onBox b f).module = s.module := rfl
@[simp] theorem State.onBox_now (b : Nat) (f : Box → Box) : (s.onBox b f).now = s.now := rfl
@[simp] theorem State.onBox_dir (b : Nat) (f : Box → Box) : (s.onBox b f).dir = { s.dir with boxes := s.dir.boxes.write Box.unassigned b (f (s.box b)) } := rfl
@[simp] theorem State.onBox_flash (b : Nat) (f : Box → Box) : (s.onBox b f).flash = s.flash := rfl
@[simp] theorem State.onBox_cache (b : Nat) (f : Box → Box) : (s.onBox b f).cache = s.cache := rfl
@[simp] theorem State.onBox_ports (b : Nat) (f : Box → Box) : (s.onBox b f).ports = s.ports := rfl
@[simp] theorem State.onBox_transmit (b : Nat) (f : Box → Box) : (s.onBox b f).transmit = s.transmit := rfl
@[simp] theorem State.onBox_jobs (b : Nat) (f : Box → Box) : (s.onBox b f).jobs = s.jobs := rfl
@[simp] theorem State.onBox_retention (b : Nat) (f : Box → Box) : (s.onBox b f).retention = s.retention := rfl
@[simp] theorem State.onBox_lamps (b : Nat) (f : Box → Box) : (s.onBox b f).lamps = s.lamps := rfl
@[simp] theorem State.onBox_lampQueue (b : Nat) (f : Box → Box) : (s.onBox b f).lampQueue = s.lampQueue := rfl
@[simp] theorem State.onBox_line (b : Nat) (f : Box → Box) : (s.onBox b f).line = s.line := rfl
@[simp] theorem State.onBox_link (b : Nat) (f : Box → Box) : (s.onBox b f).link = s.link := rfl
@[simp] theorem State.onBox_pending (b : Nat) (f : Box → Box) : (s.onBox b f).pending = s.pending := rfl

/-! ## setEntry -/

@[simp] theorem State.setEntry_module (e : Nat) (v : Entry) : (s.setEntry e v).module = s.module := rfl
@[simp] theorem State.setEntry_now (e : Nat) (v : Entry) : (s.setEntry e v).now = s.now := rfl
@[simp] theorem State.setEntry_dir (e : Nat) (v : Entry) : (s.setEntry e v).dir = { s.dir with entries := s.dir.entries.put e v } := rfl
@[simp] theorem State.setEntry_flash (e : Nat) (v : Entry) : (s.setEntry e v).flash = s.flash := rfl
@[simp] theorem State.setEntry_cache (e : Nat) (v : Entry) : (s.setEntry e v).cache = s.cache := rfl
@[simp] theorem State.setEntry_ports (e : Nat) (v : Entry) : (s.setEntry e v).ports = s.ports := rfl
@[simp] theorem State.setEntry_transmit (e : Nat) (v : Entry) : (s.setEntry e v).transmit = s.transmit := rfl
@[simp] theorem State.setEntry_jobs (e : Nat) (v : Entry) : (s.setEntry e v).jobs = s.jobs := rfl
@[simp] theorem State.setEntry_retention (e : Nat) (v : Entry) : (s.setEntry e v).retention = s.retention := rfl
@[simp] theorem State.setEntry_lamps (e : Nat) (v : Entry) : (s.setEntry e v).lamps = s.lamps := rfl
@[simp] theorem State.setEntry_lampQueue (e : Nat) (v : Entry) : (s.setEntry e v).lampQueue = s.lampQueue := rfl
@[simp] theorem State.setEntry_line (e : Nat) (v : Entry) : (s.setEntry e v).line = s.line := rfl
@[simp] theorem State.setEntry_link (e : Nat) (v : Entry) : (s.setEntry e v).link = s.link := rfl
@[simp] theorem State.setEntry_pending (e : Nat) (v : Entry) : (s.setEntry e v).pending = s.pending := rfl

/-! ## freeEntry -/

@[simp] theorem State.freeEntry_module (e : Nat) : (s.freeEntry e).module = s.module := rfl
@[simp] theorem State.freeEntry_now (e : Nat) : (s.freeEntry e).now = s.now := rfl
@[simp] theorem State.freeEntry_dir (e : Nat) : (s.freeEntry e).dir = { s.dir with entries := s.dir.entries.drop e } := rfl
@[simp] theorem State.freeEntry_flash (e : Nat) : (s.freeEntry e).flash = s.flash := rfl
@[simp] theorem State.freeEntry_cache (e : Nat) : (s.freeEntry e).cache = s.cache := rfl
@[simp] theorem State.freeEntry_ports (e : Nat) : (s.freeEntry e).ports = s.ports := rfl
@[simp] theorem State.freeEntry_transmit (e : Nat) : (s.freeEntry e).transmit = s.transmit := rfl
@[simp] theorem State.freeEntry_jobs (e : Nat) : (s.freeEntry e).jobs = s.jobs := rfl
@[simp] theorem State.freeEntry_retention (e : Nat) : (s.freeEntry e).retention = s.retention := rfl
@[simp] theorem State.freeEntry_lamps (e : Nat) : (s.freeEntry e).lamps = s.lamps := rfl
@[simp] theorem State.freeEntry_lampQueue (e : Nat) : (s.freeEntry e).lampQueue = s.lampQueue := rfl
@[simp] theorem State.freeEntry_line (e : Nat) : (s.freeEntry e).line = s.line := rfl
@[simp] theorem State.freeEntry_link (e : Nat) : (s.freeEntry e).link = s.link := rfl
@[simp] theorem State.freeEntry_pending (e : Nat) : (s.freeEntry e).pending = s.pending := rfl

/-! ## setMembers -/

@[simp] theorem State.setMembers_module (l : Nat) (ms : List Nat) : (s.setMembers l ms).module = s.module := rfl
@[simp] theorem State.setMembers_now (l : Nat) (ms : List Nat) : (s.setMembers l ms).now = s.now := rfl
@[simp] theorem State.setMembers_dir (l : Nat) (ms : List Nat) : (s.setMembers l ms).dir = { s.dir with lists := s.dir.lists.put l ms } := rfl
@[simp] theorem State.setMembers_flash (l : Nat) (ms : List Nat) : (s.setMembers l ms).flash = s.flash := rfl
@[simp] theorem State.setMembers_cache (l : Nat) (ms : List Nat) : (s.setMembers l ms).cache = s.cache := rfl
@[simp] theorem State.setMembers_ports (l : Nat) (ms : List Nat) : (s.setMembers l ms).ports = s.ports := rfl
@[simp] theorem State.setMembers_transmit (l : Nat) (ms : List Nat) : (s.setMembers l ms).transmit = s.transmit := rfl
@[simp] theorem State.setMembers_jobs (l : Nat) (ms : List Nat) : (s.setMembers l ms).jobs = s.jobs := rfl
@[simp] theorem State.setMembers_retention (l : Nat) (ms : List Nat) : (s.setMembers l ms).retention = s.retention := rfl
@[simp] theorem State.setMembers_lamps (l : Nat) (ms : List Nat) : (s.setMembers l ms).lamps = s.lamps := rfl
@[simp] theorem State.setMembers_lampQueue (l : Nat) (ms : List Nat) : (s.setMembers l ms).lampQueue = s.lampQueue := rfl
@[simp] theorem State.setMembers_line (l : Nat) (ms : List Nat) : (s.setMembers l ms).line = s.line := rfl
@[simp] theorem State.setMembers_link (l : Nat) (ms : List Nat) : (s.setMembers l ms).link = s.link := rfl
@[simp] theorem State.setMembers_pending (l : Nat) (ms : List Nat) : (s.setMembers l ms).pending = s.pending := rfl

/-! ## setBlock -/

@[simp] theorem State.setBlock_module (b : Nat) (st : BlockStatus) : (s.setBlock b st).module = s.module := rfl
@[simp] theorem State.setBlock_now (b : Nat) (st : BlockStatus) : (s.setBlock b st).now = s.now := rfl
@[simp] theorem State.setBlock_dir (b : Nat) (st : BlockStatus) : (s.setBlock b st).dir = { s.dir with blocks := s.dir.blocks.put b st } := rfl
@[simp] theorem State.setBlock_flash (b : Nat) (st : BlockStatus) : (s.setBlock b st).flash = s.flash := rfl
@[simp] theorem State.setBlock_cache (b : Nat) (st : BlockStatus) : (s.setBlock b st).cache = s.cache := rfl
@[simp] theorem State.setBlock_ports (b : Nat) (st : BlockStatus) : (s.setBlock b st).ports = s.ports := rfl
@[simp] theorem State.setBlock_transmit (b : Nat) (st : BlockStatus) : (s.setBlock b st).transmit = s.transmit := rfl
@[simp] theorem State.setBlock_jobs (b : Nat) (st : BlockStatus) : (s.setBlock b st).jobs = s.jobs := rfl
@[simp] theorem State.setBlock_retention (b : Nat) (st : BlockStatus) : (s.setBlock b st).retention = s.retention := rfl
@[simp] theorem State.setBlock_lamps (b : Nat) (st : BlockStatus) : (s.setBlock b st).lamps = s.lamps := rfl
@[simp] theorem State.setBlock_lampQueue (b : Nat) (st : BlockStatus) : (s.setBlock b st).lampQueue = s.lampQueue := rfl
@[simp] theorem State.setBlock_line (b : Nat) (st : BlockStatus) : (s.setBlock b st).line = s.line := rfl
@[simp] theorem State.setBlock_link (b : Nat) (st : BlockStatus) : (s.setBlock b st).link = s.link := rfl
@[simp] theorem State.setBlock_pending (b : Nat) (st : BlockStatus) : (s.setBlock b st).pending = s.pending := rfl

/-! ## setPort -/

@[simp] theorem State.setPort_module (p : Nat) (v : Port) : (s.setPort p v).module = s.module := rfl
@[simp] theorem State.setPort_now (p : Nat) (v : Port) : (s.setPort p v).now = s.now := rfl
@[simp] theorem State.setPort_dir (p : Nat) (v : Port) : (s.setPort p v).dir = s.dir := rfl
@[simp] theorem State.setPort_flash (p : Nat) (v : Port) : (s.setPort p v).flash = s.flash := rfl
@[simp] theorem State.setPort_cache (p : Nat) (v : Port) : (s.setPort p v).cache = s.cache := rfl
@[simp] theorem State.setPort_ports (p : Nat) (v : Port) : (s.setPort p v).ports = s.ports.write Port.cold p v := rfl
@[simp] theorem State.setPort_transmit (p : Nat) (v : Port) : (s.setPort p v).transmit = s.transmit := rfl
@[simp] theorem State.setPort_jobs (p : Nat) (v : Port) : (s.setPort p v).jobs = s.jobs := rfl
@[simp] theorem State.setPort_retention (p : Nat) (v : Port) : (s.setPort p v).retention = s.retention := rfl
@[simp] theorem State.setPort_lamps (p : Nat) (v : Port) : (s.setPort p v).lamps = s.lamps := rfl
@[simp] theorem State.setPort_lampQueue (p : Nat) (v : Port) : (s.setPort p v).lampQueue = s.lampQueue := rfl
@[simp] theorem State.setPort_line (p : Nat) (v : Port) : (s.setPort p v).line = s.line := rfl
@[simp] theorem State.setPort_link (p : Nat) (v : Port) : (s.setPort p v).link = s.link := rfl
@[simp] theorem State.setPort_pending (p : Nat) (v : Port) : (s.setPort p v).pending = s.pending := rfl

/-! ## onPort -/

@[simp] theorem State.onPort_module (p : Nat) (f : Port → Port) : (s.onPort p f).module = s.module := rfl
@[simp] theorem State.onPort_now (p : Nat) (f : Port → Port) : (s.onPort p f).now = s.now := rfl
@[simp] theorem State.onPort_dir (p : Nat) (f : Port → Port) : (s.onPort p f).dir = s.dir := rfl
@[simp] theorem State.onPort_flash (p : Nat) (f : Port → Port) : (s.onPort p f).flash = s.flash := rfl
@[simp] theorem State.onPort_cache (p : Nat) (f : Port → Port) : (s.onPort p f).cache = s.cache := rfl
@[simp] theorem State.onPort_ports (p : Nat) (f : Port → Port) : (s.onPort p f).ports = s.ports.write Port.cold p (f (s.port p)) := rfl
@[simp] theorem State.onPort_transmit (p : Nat) (f : Port → Port) : (s.onPort p f).transmit = s.transmit := rfl
@[simp] theorem State.onPort_jobs (p : Nat) (f : Port → Port) : (s.onPort p f).jobs = s.jobs := rfl
@[simp] theorem State.onPort_retention (p : Nat) (f : Port → Port) : (s.onPort p f).retention = s.retention := rfl
@[simp] theorem State.onPort_lamps (p : Nat) (f : Port → Port) : (s.onPort p f).lamps = s.lamps := rfl
@[simp] theorem State.onPort_lampQueue (p : Nat) (f : Port → Port) : (s.onPort p f).lampQueue = s.lampQueue := rfl
@[simp] theorem State.onPort_line (p : Nat) (f : Port → Port) : (s.onPort p f).line = s.line := rfl
@[simp] theorem State.onPort_link (p : Nat) (f : Port → Port) : (s.onPort p f).link = s.link := rfl
@[simp] theorem State.onPort_pending (p : Nat) (f : Port → Port) : (s.onPort p f).pending = s.pending := rfl

/-! ## setLamp -/

@[simp] theorem State.setLamp_module (b : Nat) (v : Lamp) : (s.setLamp b v).module = s.module := rfl
@[simp] theorem State.setLamp_now (b : Nat) (v : Lamp) : (s.setLamp b v).now = s.now := rfl
@[simp] theorem State.setLamp_dir (b : Nat) (v : Lamp) : (s.setLamp b v).dir = s.dir := rfl
@[simp] theorem State.setLamp_flash (b : Nat) (v : Lamp) : (s.setLamp b v).flash = s.flash := rfl
@[simp] theorem State.setLamp_cache (b : Nat) (v : Lamp) : (s.setLamp b v).cache = s.cache := rfl
@[simp] theorem State.setLamp_ports (b : Nat) (v : Lamp) : (s.setLamp b v).ports = s.ports := rfl
@[simp] theorem State.setLamp_transmit (b : Nat) (v : Lamp) : (s.setLamp b v).transmit = s.transmit := rfl
@[simp] theorem State.setLamp_jobs (b : Nat) (v : Lamp) : (s.setLamp b v).jobs = s.jobs := rfl
@[simp] theorem State.setLamp_retention (b : Nat) (v : Lamp) : (s.setLamp b v).retention = s.retention := rfl
@[simp] theorem State.setLamp_lamps (b : Nat) (v : Lamp) : (s.setLamp b v).lamps = s.lamps.write Lamp.unmapped b v := rfl
@[simp] theorem State.setLamp_lampQueue (b : Nat) (v : Lamp) : (s.setLamp b v).lampQueue = s.lampQueue := rfl
@[simp] theorem State.setLamp_line (b : Nat) (v : Lamp) : (s.setLamp b v).line = s.line := rfl
@[simp] theorem State.setLamp_link (b : Nat) (v : Lamp) : (s.setLamp b v).link = s.link := rfl
@[simp] theorem State.setLamp_pending (b : Nat) (v : Lamp) : (s.setLamp b v).pending = s.pending := rfl

/-! ## onLamp -/

@[simp] theorem State.onLamp_module (b : Nat) (f : Lamp → Lamp) : (s.onLamp b f).module = s.module := rfl
@[simp] theorem State.onLamp_now (b : Nat) (f : Lamp → Lamp) : (s.onLamp b f).now = s.now := rfl
@[simp] theorem State.onLamp_dir (b : Nat) (f : Lamp → Lamp) : (s.onLamp b f).dir = s.dir := rfl
@[simp] theorem State.onLamp_flash (b : Nat) (f : Lamp → Lamp) : (s.onLamp b f).flash = s.flash := rfl
@[simp] theorem State.onLamp_cache (b : Nat) (f : Lamp → Lamp) : (s.onLamp b f).cache = s.cache := rfl
@[simp] theorem State.onLamp_ports (b : Nat) (f : Lamp → Lamp) : (s.onLamp b f).ports = s.ports := rfl
@[simp] theorem State.onLamp_transmit (b : Nat) (f : Lamp → Lamp) : (s.onLamp b f).transmit = s.transmit := rfl
@[simp] theorem State.onLamp_jobs (b : Nat) (f : Lamp → Lamp) : (s.onLamp b f).jobs = s.jobs := rfl
@[simp] theorem State.onLamp_retention (b : Nat) (f : Lamp → Lamp) : (s.onLamp b f).retention = s.retention := rfl
@[simp] theorem State.onLamp_lamps (b : Nat) (f : Lamp → Lamp) : (s.onLamp b f).lamps = s.lamps.write Lamp.unmapped b (f (s.lamp b)) := rfl
@[simp] theorem State.onLamp_lampQueue (b : Nat) (f : Lamp → Lamp) : (s.onLamp b f).lampQueue = s.lampQueue := rfl
@[simp] theorem State.onLamp_line (b : Nat) (f : Lamp → Lamp) : (s.onLamp b f).line = s.line := rfl
@[simp] theorem State.onLamp_link (b : Nat) (f : Lamp → Lamp) : (s.onLamp b f).link = s.link := rfl
@[simp] theorem State.onLamp_pending (b : Nat) (f : Lamp → Lamp) : (s.onLamp b f).pending = s.pending := rfl

/-! ## onShelf -/

@[simp] theorem State.onShelf_module (n : Nat) (f : Shelf → Shelf) : (s.onShelf n f).module = s.module := rfl
@[simp] theorem State.onShelf_now (n : Nat) (f : Shelf → Shelf) : (s.onShelf n f).now = s.now := rfl
@[simp] theorem State.onShelf_dir (n : Nat) (f : Shelf → Shelf) : (s.onShelf n f).dir = s.dir := rfl
@[simp] theorem State.onShelf_flash (n : Nat) (f : Shelf → Shelf) : (s.onShelf n f).flash = s.flash := rfl
@[simp] theorem State.onShelf_cache (n : Nat) (f : Shelf → Shelf) : (s.onShelf n f).cache = s.cache := rfl
@[simp] theorem State.onShelf_ports (n : Nat) (f : Shelf → Shelf) : (s.onShelf n f).ports = s.ports := rfl
@[simp] theorem State.onShelf_transmit (n : Nat) (f : Shelf → Shelf) : (s.onShelf n f).transmit = s.transmit := rfl
@[simp] theorem State.onShelf_jobs (n : Nat) (f : Shelf → Shelf) : (s.onShelf n f).jobs = s.jobs := rfl
@[simp] theorem State.onShelf_retention (n : Nat) (f : Shelf → Shelf) : (s.onShelf n f).retention = s.retention := rfl
@[simp] theorem State.onShelf_lamps (n : Nat) (f : Shelf → Shelf) : (s.onShelf n f).lamps = s.lamps := rfl
@[simp] theorem State.onShelf_lampQueue (n : Nat) (f : Shelf → Shelf) : (s.onShelf n f).lampQueue = s.lampQueue := rfl
@[simp] theorem State.onShelf_line (n : Nat) (f : Shelf → Shelf) : (s.onShelf n f).line = { s.line with shelves := s.line.shelves.write Shelf.cold n (f (s.shelf n)) } := rfl
@[simp] theorem State.onShelf_link (n : Nat) (f : Shelf → Shelf) : (s.onShelf n f).link = s.link := rfl
@[simp] theorem State.onShelf_pending (n : Nat) (f : Shelf → Shelf) : (s.onShelf n f).pending = s.pending := rfl

/-! ## raise -/

@[simp] theorem State.raise_module (k : NoticeKind) (fs : List Field) : (s.raise k fs).module = s.module := rfl
@[simp] theorem State.raise_now (k : NoticeKind) (fs : List Field) : (s.raise k fs).now = s.now := rfl
@[simp] theorem State.raise_dir (k : NoticeKind) (fs : List Field) : (s.raise k fs).dir = s.dir := rfl
@[simp] theorem State.raise_flash (k : NoticeKind) (fs : List Field) : (s.raise k fs).flash = s.flash := rfl
@[simp] theorem State.raise_cache (k : NoticeKind) (fs : List Field) : (s.raise k fs).cache = s.cache := rfl
@[simp] theorem State.raise_ports (k : NoticeKind) (fs : List Field) : (s.raise k fs).ports = s.ports := rfl
@[simp] theorem State.raise_transmit (k : NoticeKind) (fs : List Field) : (s.raise k fs).transmit = s.transmit := rfl
@[simp] theorem State.raise_jobs (k : NoticeKind) (fs : List Field) : (s.raise k fs).jobs = s.jobs := rfl
@[simp] theorem State.raise_retention (k : NoticeKind) (fs : List Field) : (s.raise k fs).retention = s.retention := rfl
@[simp] theorem State.raise_lamps (k : NoticeKind) (fs : List Field) : (s.raise k fs).lamps = s.lamps := rfl
@[simp] theorem State.raise_lampQueue (k : NoticeKind) (fs : List Field) : (s.raise k fs).lampQueue = s.lampQueue := rfl
@[simp] theorem State.raise_line (k : NoticeKind) (fs : List Field) : (s.raise k fs).line = s.line := rfl
@[simp] theorem State.raise_link (k : NoticeKind) (fs : List Field) : (s.raise k fs).link = s.link.raise k fs := rfl
@[simp] theorem State.raise_pending (k : NoticeKind) (fs : List Field) : (s.raise k fs).pending = s.pending := rfl

/-! ## answered -/

@[simp] theorem State.answered_module (k t : Nat) (fs : List Field) : (s.answered k t fs).module = s.module := rfl
@[simp] theorem State.answered_now (k t : Nat) (fs : List Field) : (s.answered k t fs).now = s.now := rfl
@[simp] theorem State.answered_dir (k t : Nat) (fs : List Field) : (s.answered k t fs).dir = s.dir := rfl
@[simp] theorem State.answered_flash (k t : Nat) (fs : List Field) : (s.answered k t fs).flash = s.flash := rfl
@[simp] theorem State.answered_cache (k t : Nat) (fs : List Field) : (s.answered k t fs).cache = s.cache := rfl
@[simp] theorem State.answered_ports (k t : Nat) (fs : List Field) : (s.answered k t fs).ports = s.ports := rfl
@[simp] theorem State.answered_transmit (k t : Nat) (fs : List Field) : (s.answered k t fs).transmit = s.transmit := rfl
@[simp] theorem State.answered_jobs (k t : Nat) (fs : List Field) : (s.answered k t fs).jobs = s.jobs := rfl
@[simp] theorem State.answered_retention (k t : Nat) (fs : List Field) : (s.answered k t fs).retention = s.retention := rfl
@[simp] theorem State.answered_lamps (k t : Nat) (fs : List Field) : (s.answered k t fs).lamps = s.lamps := rfl
@[simp] theorem State.answered_lampQueue (k t : Nat) (fs : List Field) : (s.answered k t fs).lampQueue = s.lampQueue := rfl
@[simp] theorem State.answered_line (k t : Nat) (fs : List Field) : (s.answered k t fs).line = s.line := rfl
@[simp] theorem State.answered_link (k t : Nat) (fs : List Field) : (s.answered k t fs).link = { s.link with fifo := s.link.fifo ++ [.accepted k t fs] } := rfl
@[simp] theorem State.answered_pending (k t : Nat) (fs : List Field) : (s.answered k t fs).pending = s.pending := rfl

/-! ## refusedWith -/

@[simp] theorem State.refusedWith_module (k t : Nat) (r : Reason) (d : Nat) : (s.refusedWith k t r d).module = s.module := rfl
@[simp] theorem State.refusedWith_now (k t : Nat) (r : Reason) (d : Nat) : (s.refusedWith k t r d).now = s.now := rfl
@[simp] theorem State.refusedWith_dir (k t : Nat) (r : Reason) (d : Nat) : (s.refusedWith k t r d).dir = s.dir := rfl
@[simp] theorem State.refusedWith_flash (k t : Nat) (r : Reason) (d : Nat) : (s.refusedWith k t r d).flash = s.flash := rfl
@[simp] theorem State.refusedWith_cache (k t : Nat) (r : Reason) (d : Nat) : (s.refusedWith k t r d).cache = s.cache := rfl
@[simp] theorem State.refusedWith_ports (k t : Nat) (r : Reason) (d : Nat) : (s.refusedWith k t r d).ports = s.ports := rfl
@[simp] theorem State.refusedWith_transmit (k t : Nat) (r : Reason) (d : Nat) : (s.refusedWith k t r d).transmit = s.transmit := rfl
@[simp] theorem State.refusedWith_jobs (k t : Nat) (r : Reason) (d : Nat) : (s.refusedWith k t r d).jobs = s.jobs := rfl
@[simp] theorem State.refusedWith_retention (k t : Nat) (r : Reason) (d : Nat) : (s.refusedWith k t r d).retention = s.retention := rfl
@[simp] theorem State.refusedWith_lamps (k t : Nat) (r : Reason) (d : Nat) : (s.refusedWith k t r d).lamps = s.lamps := rfl
@[simp] theorem State.refusedWith_lampQueue (k t : Nat) (r : Reason) (d : Nat) : (s.refusedWith k t r d).lampQueue = s.lampQueue := rfl
@[simp] theorem State.refusedWith_line (k t : Nat) (r : Reason) (d : Nat) : (s.refusedWith k t r d).line = s.line := rfl
@[simp] theorem State.refusedWith_link (k t : Nat) (r : Reason) (d : Nat) : (s.refusedWith k t r d).link = { s.link with fifo := s.link.fifo ++ [.refused k t r d] } := rfl
@[simp] theorem State.refusedWith_pending (k t : Nat) (r : Reason) (d : Nat) : (s.refusedWith k t r d).pending = s.pending := rfl

/-! ## Reading a record after writing it -/

@[simp] theorem State.box_setBox (b : Nat) (v : Box) : (s.setBox b v).box b = v :=
  Table.read_write_same _ _ _ _

theorem State.box_setBox_other {b c : Nat} (v : Box) (h : c ≠ b) : (s.setBox b v).box c = s.box c :=
  Table.read_write_other _ _ _ h

@[simp] theorem State.box_onBox (b : Nat) (f : Box → Box) : (s.onBox b f).box b = f (s.box b) :=
  s.box_setBox b _

theorem State.box_onBox_other {b c : Nat} (f : Box → Box) (h : c ≠ b) :
    (s.onBox b f).box c = s.box c := s.box_setBox_other _ h

@[simp] theorem State.port_setPort (p : Nat) (v : Port) : (s.setPort p v).port p = v :=
  Table.read_write_same _ _ _ _

theorem State.port_setPort_other {p q : Nat} (v : Port) (h : q ≠ p) :
    (s.setPort p v).port q = s.port q := Table.read_write_other _ _ _ h

@[simp] theorem State.port_onPort (p : Nat) (f : Port → Port) :
    (s.onPort p f).port p = f (s.port p) := s.port_setPort p _

theorem State.port_onPort_other {p q : Nat} (f : Port → Port) (h : q ≠ p) :
    (s.onPort p f).port q = s.port q := s.port_setPort_other _ h

@[simp] theorem State.lamp_setLamp (b : Nat) (v : Lamp) : (s.setLamp b v).lamp b = v :=
  Table.read_write_same _ _ _ _

theorem State.lamp_setLamp_other {b c : Nat} (v : Lamp) (h : c ≠ b) :
    (s.setLamp b v).lamp c = s.lamp c := Table.read_write_other _ _ _ h

@[simp] theorem State.lamp_onLamp (b : Nat) (f : Lamp → Lamp) :
    (s.onLamp b f).lamp b = f (s.lamp b) := s.lamp_setLamp b _

theorem State.lamp_onLamp_other {b c : Nat} (f : Lamp → Lamp) (h : c ≠ b) :
    (s.onLamp b f).lamp c = s.lamp c := s.lamp_setLamp_other _ h

@[simp] theorem State.shelf_onShelf (n : Nat) (f : Shelf → Shelf) :
    (s.onShelf n f).shelf n = f (s.shelf n) := Table.read_write_same _ _ _ _

theorem State.shelf_onShelf_other {n m : Nat} (f : Shelf → Shelf) (h : m ≠ n) :
    (s.onShelf n f).shelf m = s.shelf m := Table.read_write_other _ _ _ h

@[simp] theorem State.recording_setRecording (r : Nat) (v : Recording) :
    (s.setRecording r v).recording r = some v := Table.find_put_same _ _ _

theorem State.recording_setRecording_other {r q : Nat} (v : Recording) (h : q ≠ r) :
    (s.setRecording r v).recording q = s.recording q := Table.find_put_other _ _ h

@[simp] theorem State.recording_emptyRecording (r : Nat) :
    (s.emptyRecording r).recording r = none := Table.find_drop_same _ _

theorem State.recording_emptyRecording_other {r q : Nat} (h : q ≠ r) :
    (s.emptyRecording r).recording q = s.recording q := Table.find_drop_other _ h

@[simp] theorem State.entry_setEntry (e : Nat) (v : Entry) : (s.setEntry e v).entry e = some v :=
  Table.find_put_same _ _ _

theorem State.entry_setEntry_other {e f : Nat} (v : Entry) (h : f ≠ e) :
    (s.setEntry e v).entry f = s.entry f := Table.find_put_other _ _ h

@[simp] theorem State.entry_freeEntry (e : Nat) : (s.freeEntry e).entry e = none :=
  Table.find_drop_same _ _

theorem State.entry_freeEntry_other {e f : Nat} (h : f ≠ e) :
    (s.freeEntry e).entry f = s.entry f := Table.find_drop_other _ h

@[simp] theorem State.members_setMembers (l : Nat) (ms : List Nat) :
    (s.setMembers l ms).members l = some ms := Table.find_put_same _ _ _

theorem State.members_setMembers_other {l k : Nat} (ms : List Nat) (h : k ≠ l) :
    (s.setMembers l ms).members k = s.members k := Table.find_put_other _ _ h

@[simp] theorem State.block_setBlock (b : Nat) (st : BlockStatus) :
    (s.setBlock b st).dir.block b = some st := Table.find_put_same _ _ _

theorem State.block_setBlock_other {b c : Nat} (st : BlockStatus) (h : c ≠ b) :
    (s.setBlock b st).dir.block c = s.dir.block c := Table.find_put_other _ _ h

@[simp] theorem Cache.line_setLine (c : Cache) (n : Nat) (v : Line) : (c.setLine n v).line n = v :=
  Table.read_write_same _ _ _ _

theorem Cache.line_setLine_other (c : Cache) {n m : Nat} (v : Line) (h : m ≠ n) :
    (c.setLine n v).line m = c.line m := Table.read_write_other _ _ _ h

/-! ## Answering a request (R178) -/

/-- A test that passes is answered with the state and the fields it gives. -/
@[simp] theorem answerTest_ok (t : State) (fs : List Field) :
    answerTest s (.ok (t, fs)) = (t, .accepted fs) := rfl

/-- A test that fails leaves the state as it was. -/
@[simp] theorem answerTest_error (r : Reason) (d : Nat) :
    answerTest s (.error (r, d)) = (s, .refused r d) := rfl

/-- A request that arrives on a ready module is handled at once. -/
theorem State.request_ready {i : Instr} {kind tag : Nat} {body : List Byte}
    (h : State → State × Reply) (hs : s.ready) (hi : requestFrame i = some (kind, tag, body)) :
    s.request i h = (h s).1.onLink (fun l => l.reply kind tag (h s).2) := by
  obtain ⟨hr, hq, hu⟩ := hs
  simp [State.request, Link.isClear, hi, hq, hu, State.handle, hr]

/-- A request that a ready module accepts. -/
theorem State.request_accepted {i : Instr} {kind tag : Nat} {body : List Byte}
    {h : State → State × Reply} {t : State} {fs : List Field} (hs : s.ready)
    (hi : requestFrame i = some (kind, tag, body)) (ht : h s = (t, .accepted fs)) :
    s.request i h = t.answered kind tag fs := by
  rw [s.request_ready h hs hi, ht]; rfl

/-- A request that a ready module refuses. -/
theorem State.request_refused {i : Instr} {kind tag : Nat} {body : List Byte}
    {h : State → State × Reply} {t : State} {r : Reason} {d : Nat} (hs : s.ready)
    (hi : requestFrame i = some (kind, tag, body)) (ht : h s = (t, .refused r d)) :
    s.request i h = t.refusedWith kind tag r d := by
  rw [s.request_ready h hs hi, ht]; rfl

end Sys2Proof.Machine
end

