-- ==== Sys2Proof/Laws/StoreBooks.lean ====
section
/-! SUPPORT. The books of the block store: what the operations on blocks, chains and recordings do to
them. `StoreBooksBut` says how the books stand in the middle of such an operation. -/

namespace Sys2Proof.Machine

/-! ## The pool -/

theorem Pool.append_blocks (p : Pool) (b : Nat) : (p.append b).blocks = p.blocks ++ [b] := by
  have h (rs : List Run) : (appendRun rs b).flatMap Run.blocks = rs.flatMap Run.blocks ++ [b] := by
    induction rs with
    | nil => simp [appendRun, Run.blocks]
    | cons r rest ih =>
      cases rest with
      | nil =>
        unfold appendRun
        split
        · next e => simp [Run.blocks, List.range_succ, e]
        · simp [Run.blocks]
      | cons r' rest' =>
        have e : appendRun (r :: r' :: rest') b = r :: appendRun (r' :: rest') b := rfl
        rw [e, List.flatMap_cons, ih]; simp
  exact h p.runs

theorem Pool.take_blocks {p q : Pool} {b : Nat} (h : p.take = some (b, q)) :
    p.blocks = b :: q.blocks := by
  have key (rs : List Run) (c : Nat) (rest : List Run) (e : takeRun rs = some (c, rest)) :
      rs.flatMap Run.blocks = c :: rest.flatMap Run.blocks := by
    induction rs with
    | nil => cases e
    | cons r more ih =>
      obtain ⟨f, n⟩ := r
      match n with
      | 0 => simpa [Run.blocks] using ih e
      | 1 => cases e; simp [Run.blocks]
      | n + 2 =>
        cases e
        simp only [List.flatMap_cons, Run.blocks, ← List.cons_append]
        congr 1
        rw [List.range_succ_eq_map]
        simp [Function.comp_def, Nat.add_assoc, Nat.add_comm 1]
  unfold Pool.take at h
  simp only [Option.map_eq_some_iff] at h
  obtain ⟨⟨c, rest⟩, e, g⟩ := h
  cases g
  exact key _ _ _ e

/-! ## Chains -/

variable {d e : Directory}

theorem Directory.chainFrom_congr {n : Nat} {x : Option Nat}
    (h : ∀ b ∈ d.chainFrom n x, e.nextOf b = d.nextOf b) : e.chainFrom n x = d.chainFrom n x := by
  induction n generalizing x with
  | zero => rfl
  | succ n ih =>
    cases x with
    | none => rfl
    | some b =>
      simp only [Directory.chainFrom, List.mem_cons, forall_eq_or_imp] at h ⊢
      rw [h.1, ih h.2]

theorem Directory.nextOf_congr {b : Nat} (h : e.block b = d.block b) : e.nextOf b = d.nextOf b := by
  unfold Directory.nextOf; rw [h]

theorem Directory.ownerOf_congr {b : Nat} (h : e.block b = d.block b) : e.ownerOf b = d.ownerOf b := by
  unfold Directory.ownerOf; rw [h]

/-- The chain of a record whose blocks are as they were. -/
theorem Directory.chainOf_congr {v : Recording} (h : ∀ b ∈ d.chainOf v, e.block b = d.block b) :
    e.chainOf v = d.chainOf v :=
  Directory.chainFrom_congr fun b hb => Directory.nextOf_congr (h b hb)

theorem ChainBooks.congr {r : Nat} {v : Recording} (h : ChainBooks d r v)
    (g : ∀ b ∈ d.chainOf v, e.block b = d.block b) : ChainBooks e r v := by
  have c := Directory.chainOf_congr g
  have t : v.tail ∈ d.chainOf v := List.mem_of_getLast? h.last
  refine ⟨c ▸ h.count, c ▸ h.once, ?_, c ▸ h.last, ?_⟩
  · rw [c]; intro b hb; rw [Directory.ownerOf_congr (g b hb)]; exact h.own b hb
  · rw [Directory.nextOf_congr (g _ t)]; exact h.ends

/-- The books of a chain, for another record of the same chain. -/
theorem ChainBooks.record {r : Nat} {v w : Recording} (h : ChainBooks d r v) (hh : w.head = v.head)
    (ht : w.tail = v.tail) (hb : w.blocks = v.blocks) : ChainBooks d r w := by
  have c : d.chainOf w = d.chainOf v := by unfold Directory.chainOf; rw [hh, hb]
  exact ⟨by rw [c, hb]; exact h.count, by rw [c]; exact h.once, by rw [c]; exact h.own,
    by rw [c, ht]; exact h.last, by rw [ht]; exact h.ends⟩

theorem ChainBooks.tail_mem {r : Nat} {v : Recording} (h : ChainBooks d r v) : v.tail ∈ d.chainOf v :=
  List.mem_of_getLast? h.last

theorem ChainBooks.pos {r : Nat} {v : Recording} (h : ChainBooks d r v) : 0 < v.blocks := by
  rw [← h.count]; exact List.length_pos_of_mem h.tail_mem

/-- A block of a chain is CHAINED to its recording. -/
theorem ChainBooks.block {r b : Nat} {v : Recording} (h : ChainBooks d r v) (hb : b ∈ d.chainOf v) :
    d.block b = some (.chained r (d.nextOf b)) := by
  have o := h.own b hb
  unfold Directory.ownerOf at o
  unfold Directory.nextOf
  split at o
  · next n e => cases o; rw [e]
  · cases o

/-! ## The books in the middle of an operation -/

/-- The books of the block store while recording `x` is being freed, the blocks `loose` are CHAINED and
stand in no chain, and the blocks `out` have been taken from the pool and have no status yet. -/
structure StoreBooksBut (d : Directory) (x : Option Nat) (loose out : List Nat) : Prop where
  once : d.pool.blocks.Nodup
  free : ∀ b, b ∈ d.pool.blocks ↔ b < Config.numBlocks ∧ d.block b = none ∧ b ∉ out
  outFree : ∀ b ∈ out, b < Config.numBlocks ∧ d.block b = none
  range : ∀ b, d.block b ≠ none → b < Config.numBlocks
  chains : ∀ r v, some r ≠ x → d.recordings.find r = some v → ChainBooks d r v
  owned : ∀ b r n, d.block b = some (.chained r n) → b ∈ loose ∨
    (some r ≠ x ∧ ∃ v, d.recordings.find r = some v ∧ b ∈ d.chainOf v)
  looseOnce : loose.Nodup
  looseIn : ∀ b ∈ loose, (∃ r n, d.block b = some (.chained r n)) ∧
    ∀ r v, some r ≠ x → d.recordings.find r = some v → b ∉ d.chainOf v

theorem StoreBooks.but (h : StoreBooks d) : StoreBooksBut d none [] [] where
  once := h.once
  free b := by simp [h.free b]
  outFree := by simp
  range := h.range
  chains r v _ := h.chains r v
  owned b r n e := .inr ⟨by simp, h.owned b r n e⟩
  looseOnce := .nil
  looseIn := by simp

theorem StoreBooksBut.whole (h : StoreBooksBut d none [] []) : StoreBooks d where
  once := h.once
  free b := by simp [h.free b]
  range := h.range
  chains r v := h.chains r v (by simp)
  owned b r n e := by simpa using h.owned b r n e

variable {x : Option Nat} {loose out : List Nat}

/-- The books of a directory with the same blocks, pool and recordings. -/
theorem StoreBooksBut.same (h : StoreBooksBut d x loose out) (hb : e.blocks = d.blocks)
    (hp : e.pool = d.pool) (hr : e.recordings = d.recordings) : StoreBooksBut e x loose out := by
  have b (c : Nat) : e.block c = d.block c := by unfold Directory.block; rw [hb]
  have c (v : Recording) : e.chainOf v = d.chainOf v := Directory.chainOf_congr fun c _ => b c
  refine ⟨hp ▸ h.once, ?_, ?_, ?_, ?_, ?_, h.looseOnce, ?_⟩
  · intro k; rw [hp, b]; exact h.free k
  · intro k; rw [b]; exact h.outFree k
  · intro k; rw [b]; exact h.range k
  · intro r v; rw [hr]; exact fun g f => (h.chains r v g f).congr fun k _ => b k
  · intro k r n; rw [b, hr]; simp only [c]; exact h.owned k r n
  · intro k; rw [b, hr]; simp only [c]; exact h.looseIn k

theorem StoreBooks.same (h : StoreBooks d) (hb : e.blocks = d.blocks) (hp : e.pool = d.pool)
    (hr : e.recordings = d.recordings) : StoreBooks e := (h.but.same hb hp hr).whole

/-- A chain holds no block that is FREE, DRAINING or RETIRED. -/
theorem StoreBooksBut.notIn (h : StoreBooksBut d x loose out) {r b : Nat} {v : Recording}
    (hr : some r ≠ x) (hv : d.recordings.find r = some v) (hb : ∀ q n, d.block b ≠ some (.chained q n)) :
    b ∉ d.chainOf v := fun g => hb _ _ ((h.chains r v hr hv).block g)

/-- The books after the one block `b`, which stands in no chain, has got another status. -/
theorem StoreBooksBut.chains_of (h : StoreBooksBut d x loose out) {b : Nat}
    (hr : e.recordings = d.recordings)
    (hc : ∀ c, c ≠ b → e.block c = d.block c)
    (hb : ∀ r v, some r ≠ x → d.recordings.find r = some v → b ∉ d.chainOf v) :
    (∀ r v, some r ≠ x → e.recordings.find r = some v → ChainBooks e r v) ∧
    ∀ r v, some r ≠ x → d.recordings.find r = some v → e.chainOf v = d.chainOf v := by
  have k (r : Nat) (v : Recording) (hx : some r ≠ x) (hv : d.recordings.find r = some v) :
      ∀ c ∈ d.chainOf v, e.block c = d.block c := fun c g => hc c fun e => hb r v hx hv (e ▸ g)
  refine ⟨fun r v hx hv => ?_, fun r v hx hv => Directory.chainOf_congr (k r v hx hv)⟩
  rw [hr] at hv
  exact (h.chains r v hx hv).congr (k r v hx hv)

/-- A loose block, or one DRAINING, leaves the chains: to the pool, or to a status that is not
CHAINED. -/
theorem StoreBooksBut.leave (h : StoreBooksBut d x loose out) {b : Nat}
    (hl : b ∈ loose ∨ d.block b = some .draining)
    (hn : e.pool.blocks.Nodup)
    (hp : ∀ c, c ∈ e.pool.blocks ↔ c ∈ d.pool.blocks ∨ c = b ∧ e.block b = none)
    (hr : e.recordings = d.recordings) (hb : ∀ r n, e.block b ≠ some (.chained r n))
    (hc : ∀ c, c ≠ b → e.block c = d.block c) : StoreBooksBut e x (loose.erase b) out := by
  have hsome : d.block b ≠ none := by
    rcases hl with g | g
    · obtain ⟨⟨r, n, f⟩, _⟩ := h.looseIn b g; simp [f]
    · simp [g]
  have hno : ∀ r v, some r ≠ x → d.recordings.find r = some v → b ∉ d.chainOf v := by
    intro r v hx hv
    rcases hl with g | g
    · exact (h.looseIn b g).2 r v hx hv
    · exact h.notIn hx hv (by simp [g])
  obtain ⟨hch, hsame⟩ := h.chains_of hr hc hno
  have hout : b ∉ out := fun g => hsome (h.outFree b g).2
  refine ⟨hn, ?_, ?_, ?_, hch, ?_, h.looseOnce.erase b, ?_⟩
  · intro c
    rw [hp]
    by_cases k : c = b
    · subst k; simp [h.free c, hsome, hout, h.range c hsome]
    · simp [hc c k, h.free c, k]
  · intro c g
    have k : c ≠ b := fun f => hout (f ▸ g)
    rw [hc c k]; exact h.outFree c g
  · intro c g
    by_cases k : c = b
    · subst k; exact h.range c hsome
    · rw [hc c k] at g; exact h.range c g
  · intro c r n g
    have k : c ≠ b := fun f => hb r n (f ▸ g)
    rw [hc c k] at g
    rcases h.owned c r n g with m | ⟨hx, v, hv, m⟩
    · exact .inl ((List.mem_erase_of_ne k).2 m)
    · exact .inr ⟨hx, v, hr ▸ hv, hsame r v hx hv ▸ m⟩
  · intro c g
    have k : c ≠ b := fun f => by rw [f] at g; exact h.looseOnce.not_mem_erase g
    obtain ⟨⟨r, n, f⟩, m⟩ := h.looseIn c (List.mem_of_mem_erase g)
    refine ⟨⟨r, n, by rw [hc c k]; exact f⟩, fun q v hx hv => ?_⟩
    rw [hr] at hv
    rw [hsame q v hx hv]; exact m q v hx hv

/-- A loose block, or one DRAINING, goes to the pool tail. -/
theorem StoreBooksBut.append (h : StoreBooksBut d x loose out) {b : Nat}
    (hl : b ∈ loose ∨ d.block b = some .draining)
    (hp : e.pool = d.pool.append b) (hr : e.recordings = d.recordings) (hb : e.block b = none)
    (hc : ∀ c, c ≠ b → e.block c = d.block c) : StoreBooksBut e x (loose.erase b) out := by
  have hsome : d.block b ≠ none := by
    rcases hl with g | g
    · obtain ⟨⟨r, n, f⟩, _⟩ := h.looseIn b g; simp [f]
    · simp [g]
  have hpool : b ∉ d.pool.blocks := fun g => hsome ((h.free b).1 g).2.1
  have hblocks : e.pool.blocks = d.pool.blocks ++ [b] := by rw [hp, Pool.append_blocks]
  refine h.leave hl ?_ (fun c => by simp [hblocks, hb]) hr (by simp [hb]) hc
  rw [hblocks]
  refine List.nodup_append.2 ⟨h.once, by simp, ?_⟩
  rintro a ha c hc rfl
  simp only [List.mem_singleton] at hc
  exact hpool (hc ▸ ha)

/-- A loose block becomes DRAINING or RETIRED, or a DRAINING one RETIRED. -/
theorem StoreBooksBut.mark (h : StoreBooksBut d x loose out) {b : Nat} {st : BlockStatus}
    (hl : b ∈ loose ∨ d.block b = some .draining) (hst : ∀ r n, st ≠ .chained r n)
    (hp : e.pool = d.pool) (hr : e.recordings = d.recordings) (hb : e.block b = some st)
    (hc : ∀ c, c ≠ b → e.block c = d.block c) : StoreBooksBut e x (loose.erase b) out :=
  h.leave hl (hp ▸ h.once) (fun c => by simp [hp, hb]) hr
    (fun r n g => hst r n (by simpa [hb] using g)) hc

/-! ## Recordings -/

/-- A record is replaced by one of the same chain. -/
theorem StoreBooksBut.record (h : StoreBooksBut d x loose out) {r : Nat} {v w : Recording}
    (hv : d.recordings.find r = some v) (hh : w.head = v.head) (ht : w.tail = v.tail)
    (hk : w.blocks = v.blocks) (hb : e.blocks = d.blocks) (hp : e.pool = d.pool)
    (hr : e.recordings = d.recordings.put r w) : StoreBooksBut e x loose out := by
  have b (c : Nat) : e.block c = d.block c := by unfold Directory.block; rw [hb]
  have c (u : Recording) : e.chainOf u = d.chainOf u := Directory.chainOf_congr fun c _ => b c
  have cw : e.chainOf w = d.chainOf v := by rw [c]; unfold Directory.chainOf; rw [hh, hk]
  have find (q : Nat) (hq : q ≠ r) : e.recordings.find q = d.recordings.find q := by
    rw [hr, Table.find_put_other _ _ hq]
  have self : e.recordings.find r = some w := by rw [hr]; exact Table.find_put_same _ _ _
  refine ⟨hp ▸ h.once, ?_, ?_, ?_, ?_, ?_, h.looseOnce, ?_⟩
  · intro k; rw [hp, b]; exact h.free k
  · intro k; rw [b]; exact h.outFree k
  · intro k; rw [b]; exact h.range k
  · intro q u g f
    by_cases k : q = r
    · subst k
      rw [self] at f; cases f
      exact ((h.chains q v g hv).record hh ht hk).congr fun k _ => b k
    · rw [find q k] at f
      exact (h.chains q u g f).congr fun k _ => b k
  · intro k q n g
    rw [b] at g
    rcases h.owned k q n g with m | ⟨hx, u, hu, m⟩
    · exact .inl m
    · by_cases f : q = r
      · subst f
        rw [hv] at hu; cases hu
        exact .inr ⟨hx, w, self, cw ▸ m⟩
      · exact .inr ⟨hx, u, (find q f).trans hu, c u ▸ m⟩
  · intro k g
    obtain ⟨⟨q, n, f⟩, m⟩ := h.looseIn k g
    refine ⟨⟨q, n, (b k).trans f⟩, fun q u hx hu => ?_⟩
    by_cases f : q = r
    · subst f
      rw [self] at hu; cases hu
      rw [cw]; exact m q v hx hv
    · rw [find q f] at hu
      rw [c]; exact m q u hx hu

/-- A recording begins to be freed: the blocks of its chain are loose. -/
theorem StoreBooks.release (h : StoreBooks d) {r : Nat} {v : Recording}
    (hv : d.recordings.find r = some v) : StoreBooksBut d (some r) (d.chainOf v) [] := by
  have hr := h.chains r v hv
  refine ⟨h.once, h.but.free, by simp, h.range, fun q u _ hu => h.chains q u hu, ?_, hr.once, ?_⟩
  · intro b q n g
    obtain ⟨u, hu, m⟩ := h.owned b q n g
    by_cases k : q = r
    · subst k; rw [hv] at hu; cases hu; exact .inl m
    · exact .inr ⟨by simpa using k, u, hu, m⟩
  · intro b hb
    refine ⟨⟨r, _, hr.block hb⟩, fun q u hx hu m => hx ?_⟩
    have := (h.chains q u hu).own b m
    rw [hr.own b hb] at this
    exact this.symm

/-- A record whose blocks are all freed becomes EMPTY. -/
theorem StoreBooksBut.empty {r : Nat} (h : StoreBooksBut d (some r) [] out) (hb : e.blocks = d.blocks)
    (hp : e.pool = d.pool) (hr : e.recordings = d.recordings.drop r) :
    StoreBooksBut e none [] out := by
  have b (c : Nat) : e.block c = d.block c := by unfold Directory.block; rw [hb]
  have c (u : Recording) : e.chainOf u = d.chainOf u := Directory.chainOf_congr fun c _ => b c
  have find (q : Nat) (hq : q ≠ r) : e.recordings.find q = d.recordings.find q := by
    rw [hr, Table.find_drop_other _ hq]
  refine ⟨hp ▸ h.once, ?_, ?_, ?_, ?_, ?_, .nil, by simp⟩
  · intro k; rw [hp, b]; exact h.free k
  · intro k; rw [b]; exact h.outFree k
  · intro k; rw [b]; exact h.range k
  · intro q u _ f
    have k : q ≠ r := by rintro rfl; rw [hr, Table.find_drop_same] at f; cases f
    rw [find q k] at f
    exact (h.chains q u (by simpa using k) f).congr fun k _ => b k
  · intro k q n g
    rw [b] at g
    rcases h.owned k q n g with m | ⟨hx, u, hu, m⟩
    · cases m
    · exact .inr ⟨by simp, u, (find q (by simpa using hx)).trans hu, c u ▸ m⟩

/-- The head of the pool is taken. -/
theorem StoreBooks.take (h : StoreBooks d) {b : Nat} {q : Pool} (ht : d.pool.take = some (b, q))
    (hb : e.blocks = d.blocks) (hp : e.pool = q) (hr : e.recordings = d.recordings) :
    StoreBooksBut e none [] [b] := by
  have k := Pool.take_blocks ht
  have m : b ∈ d.pool.blocks := by rw [k]; simp
  have n := h.once
  rw [k, List.nodup_cons] at n
  have f (c : Nat) : e.block c = d.block c := by unfold Directory.block; rw [hb]
  have g (u : Recording) : e.chainOf u = d.chainOf u := Directory.chainOf_congr fun c _ => f c
  refine ⟨hp ▸ n.2, ?_, ?_, ?_, ?_, ?_, .nil, by simp⟩
  · intro c
    have l := h.free c
    rw [k, List.mem_cons] at l
    rw [hp, f]
    constructor
    · intro m
      have w := l.1 (.inr m)
      exact ⟨w.1, w.2, by rintro o; simp only [List.mem_singleton] at o; exact n.1 (o ▸ m)⟩
    · rintro ⟨o, w, y⟩
      rcases l.2 ⟨o, w⟩ with rfl | m
      · simp at y
      · exact m
  · intro c o
    simp only [List.mem_singleton] at o
    rw [o, f]; exact (h.free b).1 m
  · intro c; rw [f]; exact h.range c
  · intro r v _; rw [hr]; exact fun o => (h.chains r v o).congr fun k _ => f k
  · intro c r o; rw [f, hr]; simp only [g]
    exact fun w => .inr ⟨by simp, h.owned c r o w⟩

/-! ## Chains cut and joined -/

/-- Each block of a list is linked to the one after it. -/
def Directory.linked (d : Directory) (bs : List Nat) : Prop :=
  bs.IsChain fun a b => d.nextOf a = some b

theorem Directory.chainFrom_linked (n : Nat) (x : Option Nat) : d.linked (d.chainFrom n x) := by
  unfold Directory.linked
  induction n generalizing x with
  | zero => exact .nil
  | succ n ih =>
    cases x with
    | none => exact .nil
    | some b =>
      unfold Directory.chainFrom
      cases n with
      | zero => exact .singleton _
      | succ n =>
        cases h : d.nextOf b with
        | none => exact .singleton _
        | some c =>
          have := ih (some c)
          simp only [Directory.chainFrom] at this ⊢
          exact .cons_cons h this

theorem Directory.chainFrom_of_linked (b : Nat) (bs : List Nat) (h : d.linked (b :: bs)) :
    d.chainFrom (bs.length + 1) (some b) = b :: bs := by
  induction bs generalizing b with
  | nil => rfl
  | cons c rest ih =>
    cases h with
    | cons_cons hn hr =>
      rw [List.length_cons, Directory.chainFrom, hn, ih c hr]

/-- The links of a list hang on the next links of all its blocks but the last. -/
theorem Directory.linked_congr (l : List Nat) (a : Nat) (h : d.linked (l ++ [a]))
    (g : ∀ c ∈ l, e.nextOf c = d.nextOf c) : e.linked (l ++ [a]) := by
  unfold Directory.linked at h ⊢
  induction l with
  | nil => exact .singleton _
  | cons c l ih =>
    have k := g c (by simp)
    cases l with
    | nil =>
      cases h with
      | cons_cons x y => exact .cons_cons (k.trans x) (.singleton _)
    | cons c' l =>
      cases h with
      | cons_cons x y =>
        exact .cons_cons (k.trans x) (ih y fun m hm => g m (List.mem_cons_of_mem _ hm))

/-- The chain of a record starts at its head. -/
theorem ChainBooks.head {r : Nat} {v : Recording} (h : ChainBooks d r v) :
    ∃ bs, d.chainOf v = v.head :: bs := by
  obtain ⟨k, e⟩ := Nat.exists_eq_succ_of_ne_zero (Nat.ne_of_gt h.pos)
  exact ⟨_, by unfold Directory.chainOf; rw [e]; rfl⟩

/-- The books of a chain from its blocks. -/
theorem ChainBooks.of_linked {r : Nat} {v : Recording} {bs : List Nat} (hl : d.linked (v.head :: bs))
    (hk : v.blocks = bs.length + 1) (hn : (v.head :: bs).Nodup)
    (ho : ∀ b ∈ v.head :: bs, d.ownerOf b = some r)
    (ht : (v.head :: bs).getLast? = some v.tail) (he : d.nextOf v.tail = none) :
    d.chainOf v = v.head :: bs ∧ ChainBooks d r v := by
  have e : d.chainOf v = v.head :: bs := by
    unfold Directory.chainOf; rw [hk]; exact Directory.chainFrom_of_linked _ _ hl
  exact ⟨e, by rw [e, hk]; rfl, e ▸ hn, e ▸ ho, e ▸ ht, he⟩

/-- The chain of one recording is changed: the blocks `loose` leave it, and a block that was out may
join it or take another status. -/
theorem StoreBooksBut.rechain {r : Nat} {w : Recording} {loose : List Nat}
    (h : StoreBooksBut d none [] out) (hp : e.pool = d.pool)
    (hr : e.recordings = d.recordings.put r w) (hw : ChainBooks e r w)
    (hfree : ∀ c, e.block c = none ↔ d.block c = none ∧ c ∉ out)
    (hother : ∀ c q n, q ≠ r →
      (e.block c = some (.chained q n) ↔ d.block c = some (.chained q n)))
    (hown : ∀ c n, e.block c = some (.chained r n) → c ∈ loose ∨ c ∈ e.chainOf w)
    (hn : loose.Nodup)
    (hl : ∀ c ∈ loose, (∃ n, e.block c = some (.chained r n)) ∧ c ∉ e.chainOf w) :
    StoreBooksBut e none loose [] := by
  have find (q : Nat) (hq : q ≠ r) : e.recordings.find q = d.recordings.find q := by
    rw [hr, Table.find_put_other _ _ hq]
  have self : e.recordings.find r = some w := by rw [hr]; exact Table.find_put_same _ _ _
  have same (q : Nat) (u : Recording) (hq : q ≠ r) (hu : d.recordings.find q = some u) :
      ∀ c ∈ d.chainOf u, e.block c = d.block c := by
    intro c hc
    have b := (h.chains q u (by simp) hu).block hc
    rw [b]; exact (hother c q _ hq).2 b
  refine ⟨hp ▸ h.once, ?_, by simp, ?_, ?_, ?_, hn, ?_⟩
  · intro c
    rw [hp, h.free c, hfree c]
    simp
  · intro c g
    by_cases k : d.block c = none
    · by_cases o : c ∈ out
      · exact (h.outFree c o).1
      · exact absurd ((hfree c).2 ⟨k, o⟩) g
    · exact h.range c k
  · intro q u _ f
    by_cases k : q = r
    · subst k; rw [self] at f; cases f; exact hw
    · rw [find q k] at f
      exact (h.chains q u (by simp) f).congr (same q u k f)
  · intro c q n g
    by_cases k : q = r
    · subst k
      exact (hown c n g).imp id fun m => ⟨by simp, w, self, m⟩
    · rcases h.owned c q n ((hother c q n k).1 g) with m | ⟨_, u, hu, m⟩
      · cases m
      · exact .inr ⟨by simp, u, (find q k).trans hu,
          (Directory.chainOf_congr (same q u k hu)) ▸ m⟩
  · intro c g
    obtain ⟨⟨n, f⟩, m⟩ := hl c g
    refine ⟨⟨r, n, f⟩, fun q u _ hu => ?_⟩
    by_cases k : q = r
    · subst k; rw [self] at hu; cases hu; exact m
    · rw [find q k] at hu
      rw [Directory.chainOf_congr (same q u k hu)]
      intro o
      have b := (h.chains q u (by simp) hu).block o
      rw [← (hother c q _ k), f] at b
      cases b; exact k rfl

/-- A recording opens on a block that was taken. -/
theorem StoreBooksBut.open {r b : Nat} {w : Recording} (h : StoreBooksBut d none [] [b])
    (hv : d.recordings.find r = none) (hh : w.head = b) (ht : w.tail = b) (hk : w.blocks = 1)
    (hp : e.pool = d.pool) (hr : e.recordings = d.recordings.put r w)
    (hb : e.block b = some (.chained r none)) (hc : ∀ c, c ≠ b → e.block c = d.block c) :
    StoreBooks e := by
  have none_ : d.block b = none := (h.outFree b (by simp)).2
  have unowned (c n) : d.block c ≠ some (.chained r n) := by
    intro g
    rcases h.owned c r n g with m | ⟨_, v, hu, _⟩
    · cases m
    · rw [hv] at hu; cases hu
  obtain ⟨e1, e2⟩ := ChainBooks.of_linked (d := e) (r := r) (v := w) (bs := []) (.singleton _)
    (by simp [hk]) (by simp) (by simp [hh, Directory.ownerOf, hb]) (by simp [hh, ht])
    (by simp [ht, Directory.nextOf, hb])
  refine (h.rechain (loose := []) hp hr e2 ?_ ?_ ?_ .nil (by simp)).whole
  · intro c
    by_cases k : c = b
    · subst k; simp [hb]
    · simp [hc c k, k]
  · intro c q n hq
    by_cases k : c = b
    · subst k; simp [hb, none_, Ne.symm hq]
    · rw [hc c k]
  · intro c n g
    by_cases k : c = b
    · rw [e1, hh]; simp [k]
    · exact absurd (hc c k ▸ g) (unowned c n)

/-- A block that was taken joins the end of a chain. -/
theorem StoreBooksBut.grow {r b : Nat} {v w : Recording} (h : StoreBooksBut d none [] [b])
    (hv : d.recordings.find r = some v) (hh : w.head = v.head) (ht : w.tail = b)
    (hk : w.blocks = v.blocks + 1) (hp : e.pool = d.pool)
    (hr : e.recordings = d.recordings.put r w) (hb : e.block b = some (.chained r none))
    (ha : e.block v.tail = some (.chained r (some b)))
    (hc : ∀ c, c ≠ b → c ≠ v.tail → e.block c = d.block c) : StoreBooks e := by
  have none_ : d.block b = none := (h.outFree b (by simp)).2
  have cv := h.chains r v (by simp) hv
  obtain ⟨bs, hbs⟩ := cv.head
  have tail_own := cv.block cv.tail_mem
  have hbv : b ∉ d.chainOf v := h.notIn (by simp) hv (by simp [none_])
  have hne : b ≠ v.tail := fun g => hbv (g ▸ cv.tail_mem)
  have lk : d.linked (d.chainOf v) := Directory.chainFrom_linked _ _
  have chained : ∀ c ∈ v.head :: (bs ++ [b]), ∃ n, e.block c = some (.chained r n) := by
    intro c m
    rw [← List.cons_append, ← hbs, List.mem_append, List.mem_singleton] at m
    rcases m with m | rfl
    · by_cases k : c = v.tail
      · subst k; exact ⟨_, ha⟩
      · exact ⟨_, (hc c (fun g => hbv (g ▸ m)) k).trans (cv.block m)⟩
    · exact ⟨_, hb⟩
  have all : v.head :: (bs ++ [b]) = d.chainOf v ++ [b] := by rw [hbs]; rfl
  obtain ⟨e1, e2⟩ := ChainBooks.of_linked (d := e) (r := r) (v := w) (bs := bs ++ [b])
    (by
      rw [hh, all]
      obtain ⟨init, hi⟩ : ∃ init, d.chainOf v = init ++ [v.tail] :=
        ⟨_, (List.dropLast_append_getLast? _ cv.last).symm⟩
      have no := cv.once
      rw [hi] at lk no ⊢
      have old := Directory.linked_congr (e := e) init v.tail lk fun c m =>
        Directory.nextOf_congr (hc c (by rintro rfl; exact hbv (by rw [hi]; simp [m]))
          (by rintro rfl; exact (List.nodup_append.1 no).2.2 _ m _ (by simp) rfl))
      refine List.isChain_append.2 ⟨old, .singleton _, ?_⟩
      simp [Directory.nextOf, ha])
    (by rw [hk, ← cv.count, hbs]; simp)
    (by
      rw [hh, all]
      refine List.nodup_append.2 ⟨cv.once, by simp, ?_⟩
      rintro a m c k rfl
      simp only [List.mem_singleton] at k
      exact hbv (k ▸ m))
    (by
      rw [hh]; intro c m
      obtain ⟨n, g⟩ := chained c m
      simp [Directory.ownerOf, g])
    (by rw [ht]; simp [List.getLast?_cons])
    (by rw [ht]; simp [Directory.nextOf, hb])
  have cw : e.chainOf w = d.chainOf v ++ [b] := by rw [e1, hh, all]
  refine (h.rechain (loose := []) hp hr e2 ?_ ?_ ?_ .nil (by simp)).whole
  · intro c
    by_cases k : c = b
    · subst k; simp [hb]
    · by_cases k' : c = v.tail
      · subst k'; simp [ha, tail_own]
      · simp [hc c k k', k]
  · intro c q n hq
    by_cases k : c = b
    · subst k; simp [hb, none_, Ne.symm hq]
    · by_cases k' : c = v.tail
      · subst k'; simp [ha, tail_own, Ne.symm hq]
      · rw [hc c k k']
  · intro c n g
    rw [cw, List.mem_append, List.mem_singleton]
    by_cases k : c = b
    · exact .inr (.inr k)
    · by_cases k' : c = v.tail
      · exact .inr (.inl (k' ▸ cv.tail_mem))
      · rw [hc c k k'] at g
        rcases h.owned c r n g with m | ⟨_, u, hu, m⟩
        · cases m
        · rw [hv] at hu; cases hu; exact .inr (.inl m)

/-- A chain is cut after its blocks `kept`; the blocks after them are loose. -/
theorem StoreBooks.cut {r t : Nat} {v w : Recording} {init rest : List Nat} (h : StoreBooks d)
    (hv : d.recordings.find r = some v) (hs : d.chainOf v = init ++ t :: rest)
    (hh : w.head = v.head) (ht : w.tail = t) (hk : w.blocks = init.length + 1)
    (hp : e.pool = d.pool) (hr : e.recordings = d.recordings.put r w)
    (hb : e.block t = some (.chained r none)) (hc : ∀ c, c ≠ t → e.block c = d.block c) :
    StoreBooksBut e none rest [] := by
  have cv := h.chains r v hv
  have tmem : t ∈ d.chainOf v := by rw [hs]; simp
  have town := cv.block tmem
  have no := cv.once
  have all : d.chainOf v = (init ++ [t]) ++ rest := by rw [hs]; simp
  have lk : d.linked (d.chainOf v) := Directory.chainFrom_linked _ _
  rw [all] at lk
  have old := Directory.linked_congr (e := e) init t (List.isChain_append.1 lk).1 fun c m =>
    Directory.nextOf_congr (hc c (by
      rintro rfl; rw [hs] at no; exact (List.nodup_append.1 no).2.2 _ m _ (by simp) rfl))
  rw [all] at no
  obtain ⟨n1, n2, n3⟩ := List.nodup_append.1 no
  obtain ⟨bs, hbs⟩ : ∃ bs, init ++ [t] = w.head :: bs := by
    obtain ⟨l, hl⟩ := cv.head
    rw [hh]
    cases init with
    | nil => rw [hs] at hl; cases hl; exact ⟨[], rfl⟩
    | cons c l => rw [hs] at hl; cases hl; exact ⟨_, rfl⟩
  have chained : ∀ c ∈ d.chainOf v, ∃ n, e.block c = some (.chained r n) := by
    intro c m
    by_cases k : c = t
    · subst k; exact ⟨_, hb⟩
    · exact ⟨_, (hc c k).trans (cv.block m)⟩
  obtain ⟨e1, e2⟩ := ChainBooks.of_linked (d := e) (r := r) (v := w) (bs := bs)
    (by rw [← hbs]; exact old)
    (by rw [hk]; have := congrArg List.length hbs; simpa using this)
    (by rw [← hbs]; exact n1)
    (by
      rw [← hbs]; intro c m
      obtain ⟨n, g⟩ := chained c (by rw [all]; exact List.mem_append_left _ m)
      simp [Directory.ownerOf, g])
    (by rw [← hbs, ht]; simp)
    (by rw [ht]; simp [Directory.nextOf, hb])
  rw [← hbs] at e1
  refine h.but.rechain (loose := rest) hp hr e2 ?_ ?_ ?_ n2 ?_
  · intro c
    by_cases k : c = t
    · subst k; simp [hb, town]
    · simp [hc c k]
  · intro c q n hq
    by_cases k : c = t
    · subst k; simp [hb, town, Ne.symm hq]
    · rw [hc c k]
  · intro c n g
    rw [e1]
    have m : c ∈ d.chainOf v := by
      by_cases k : c = t
      · exact k ▸ tmem
      · rw [hc c k] at g
        obtain ⟨u, hu, m⟩ := h.owned c r n g
        rw [hv] at hu; cases hu; exact m
    rw [all] at m
    exact (List.mem_append.1 m).symm
  · intro c m
    refine ⟨chained c (by rw [all]; exact List.mem_append_right _ m), ?_⟩
    rw [e1]; exact fun g => n3 c g c m rfl

/-- A block of a chain is RETIRED, and a block that was taken stands in its place. -/
theorem StoreBooksBut.replace {r b b' : Nat} {v w : Recording} {older younger : List Nat}
    (h : StoreBooksBut d none [] [b']) (hv : d.recordings.find r = some v)
    (hs : d.chainOf v = older ++ b :: younger)
    (hh : w.head = if v.head = b then b' else v.head)
    (ht : w.tail = if v.tail = b then b' else v.tail) (hk : w.blocks = v.blocks)
    (hp : e.pool = d.pool) (hr : e.recordings = d.recordings.put r w)
    (hb : e.block b = some .retired) (hb' : e.block b' = some (.chained r (d.nextOf b)))
    (ha : ∀ a, older.getLast? = some a → e.block a = some (.chained r (some b')))
    (hc : ∀ c, c ≠ b → c ≠ b' → older.getLast? ≠ some c → e.block c = d.block c) :
    StoreBooks e := by
  have none_ : d.block b' = none := (h.outFree b' (by simp)).2
  have cv := h.chains r v (by simp) hv
  have hbv : b' ∉ d.chainOf v := h.notIn (by simp) hv (by simp [none_])
  have no := cv.once
  have lk : d.linked (d.chainOf v) := Directory.chainFrom_linked _ _
  have bown := cv.block (show b ∈ d.chainOf v by rw [hs]; simp)
  have bne : b' ≠ b := by rintro rfl; exact hbv (by rw [hs]; simp)
  rw [hs] at no lk hbv
  obtain ⟨n1, n2, n3⟩ := List.nodup_append.1 no
  obtain ⟨k1, k2, k3⟩ := List.isChain_append.1 lk
  have inOld (c : Nat) (m : c ∈ older) : c ≠ b ∧ c ≠ b' ∧ c ∉ younger :=
    ⟨fun g => n3 c m b (by simp) g, fun g => hbv (g ▸ by simp [m]),
      fun g => n3 c m c (by simp [g]) rfl⟩
  have inYoung (c : Nat) (m : c ∈ younger) : c ≠ b ∧ c ≠ b' ∧ e.block c = d.block c := by
    have g1 : c ≠ b := fun g => (List.nodup_cons.1 n2).1 (g ▸ m)
    have g2 : c ≠ b' := fun g => hbv (g ▸ by simp [m])
    exact ⟨g1, g2, hc c g1 g2 fun g => (inOld c (List.mem_of_getLast? g)).2.2 m⟩
  have chained : ∀ c ∈ older ++ b' :: younger, ∃ n, e.block c = some (.chained r n) := by
    intro c m
    rw [List.mem_append, List.mem_cons] at m
    rcases m with m | rfl | m
    · obtain ⟨g1, g2, _⟩ := inOld c m
      by_cases k : older.getLast? = some c
      · exact ⟨_, ha c k⟩
      · exact ⟨_, (hc c g1 g2 k).trans (cv.block (by rw [hs]; simp [m]))⟩
    · exact ⟨_, hb'⟩
    · exact ⟨_, (inYoung c m).2.2.trans (cv.block (by rw [hs]; simp [m]))⟩
  have young : e.linked (b' :: younger) := by
    cases younger with
    | nil => exact .singleton _
    | cons c rest =>
      cases k2 with
      | cons_cons x y =>
        refine .cons_cons (by simp [Directory.nextOf, hb', ← x]) ?_
        have key (l : List Nat) (hl : d.linked l)
            (hm : ∀ c ∈ l, e.nextOf c = d.nextOf c) : e.linked l := by
          rcases List.eq_nil_or_concat l with rfl | ⟨i, t, rfl⟩
          · exact .nil
          · simp only [List.concat_eq_append] at hl hm ⊢
            exact Directory.linked_congr i t hl fun c m => hm c (by simp [m])
        exact key _ y fun k m => Directory.nextOf_congr (inYoung k m).2.2
  have old : e.linked older := by
    rcases List.eq_nil_or_concat older with rfl | ⟨i, t, rfl⟩
    · exact .nil
    · simp only [List.concat_eq_append] at k1 n1 inOld ⊢
      refine Directory.linked_congr i t k1 fun c m => Directory.nextOf_congr ?_
      obtain ⟨g1, g2, _⟩ := inOld c (by simp [m])
      refine hc c g1 g2 ?_
      simp only [List.concat_eq_append, List.getLast?_append, List.getLast?_singleton,
        Option.some_or, Option.some.injEq, ne_eq]
      rintro rfl
      exact (List.nodup_append.1 n1).2.2 _ m _ (by simp) rfl
  have lk' : e.linked (older ++ b' :: younger) := by
    refine List.isChain_append.2 ⟨old, young, fun a g c m => ?_⟩
    simp only [List.head?_cons, Option.mem_def, Option.some.injEq] at m
    subst m
    simp [Directory.nextOf, ha a g]
  have no' : (older ++ b' :: younger).Nodup := by
    refine List.nodup_append.2 ⟨n1, List.nodup_cons.2 ⟨fun g => (inYoung b' g).2.1 rfl,
      (List.nodup_cons.1 n2).2⟩, fun a g c m k => ?_⟩
    rw [List.mem_cons] at m
    rcases m with rfl | m
    · exact (inOld a g).2.1 k
    · exact (inOld a g).2.2 (k ▸ m)
  have head_ : ∃ bs, older ++ b' :: younger = w.head :: bs := by
    obtain ⟨l, hl⟩ := cv.head
    rw [hs] at hl
    cases older with
    | nil => cases hl; exact ⟨younger, by simp [hh]⟩
    | cons c o =>
      cases hl
      rw [if_neg (inOld _ (by simp)).1] at hh
      exact ⟨_, by rw [hh]; rfl⟩
  obtain ⟨bs, hbs⟩ := head_
  have last_ : (older ++ b' :: younger).getLast? = some w.tail := by
    have g := cv.last
    rw [hs, List.getLast?_append] at g
    rw [List.getLast?_append]
    rcases List.eq_nil_or_concat younger with rfl | ⟨i, t, rfl⟩
    · simp only [List.getLast?_singleton, Option.some_or, Option.some.injEq] at g ⊢
      rw [ht, if_pos g.symm]
    · simp only [List.concat_eq_append, List.getLast?_cons, List.getLast?_append, Option.some_or, Option.getD_some, Option.some.injEq] at g ⊢
      rw [ht, if_neg ?_]
      · exact g
      · rw [← g]; exact (inYoung t (by simp)).1
  have ends_ : e.nextOf w.tail = none := by
    have g := cv.ends
    by_cases k : v.tail = b
    · rw [ht, if_pos k]; simp [Directory.nextOf, hb', ← k]; simpa [Directory.nextOf] using g
    · rw [ht, if_neg k]
      have m : v.tail ∈ younger := by
        have f := cv.last
        rw [hs, List.getLast?_append] at f
        rcases List.eq_nil_or_concat younger with rfl | ⟨i, t, rfl⟩
        · simp at f; exact absurd f.symm k
        · simp [List.getLast?_cons, List.getLast?_append] at f
          simp [f]
      rw [Directory.nextOf_congr (inYoung _ m).2.2]; exact g
  obtain ⟨e1, e2⟩ := ChainBooks.of_linked (d := e) (r := r) (v := w) (bs := bs)
    (by rw [← hbs]; exact lk')
    (by
      rw [hk, ← cv.count, hs]
      have := congrArg List.length hbs
      simp at this ⊢; omega)
    (by rw [← hbs]; exact no')
    (by
      rw [← hbs]; intro c m
      obtain ⟨n, g⟩ := chained c m
      simp [Directory.ownerOf, g])
    (by rw [← hbs]; exact last_) ends_
  rw [← hbs] at e1
  refine (h.rechain (loose := []) hp hr e2 ?_ ?_ ?_ .nil (by simp)).whole
  · intro c
    by_cases k : c = b
    · subst k; simp [hb, bown]
    · by_cases k' : c = b'
      · subst k'; simp [hb']
      · by_cases f : older.getLast? = some c
        · have m := List.mem_of_getLast? f
          simp [ha c f, cv.block (show c ∈ d.chainOf v by rw [hs]; simp [m])]
        · simp [hc c k k' f, k']
  · intro c q n hq
    by_cases k : c = b
    · subst k; simp [hb, bown, Ne.symm hq]
    · by_cases k' : c = b'
      · subst k'; simp [hb', none_, Ne.symm hq]
      · by_cases f : older.getLast? = some c
        · have m := List.mem_of_getLast? f
          simp [ha c f, cv.block (show c ∈ d.chainOf v by rw [hs]; simp [m]), Ne.symm hq]
        · rw [hc c k k' f]
  · intro c n g
    right
    rw [e1]
    by_cases k' : c = b'
    · simp [k']
    · have k : c ≠ b := fun f => by rw [f, hb] at g; cases g
      by_cases f : older.getLast? = some c
      · have m := List.mem_of_getLast? f
        simp [m]
      · rw [hc c k k' f] at g
        rcases h.owned c r n g with m | ⟨_, u, hu, m⟩
        · cases m
        · rw [hv] at hu; cases hu
          rw [hs, List.mem_append, List.mem_cons] at m
          simp only [List.mem_append, List.mem_cons]
          tauto

end Sys2Proof.Machine
end

