-- ==== Sys2Proof/Laws/Moves.lean ====
section
/-! SUPPORT. What an internal operation of the module can do, said once: `Moves P s t` says that `t`
comes from `s` by changes to the parts named in `P`, by notices, and by nothing else, and that the
bounds and the canonical form are kept. Each operation has one lemma of this kind. -/

namespace Sys2Proof.Machine

/-- The parts of the module that an operation may change. -/
structure Parts where
  store : Bool
  boxes : Bool
  settings : Bool
  prompts : Bool
  lists : Bool
  cache : Bool
  ports : Bool
  jobs : Bool
  lamps : Bool

/-- A link after some notices have been produced. -/
inductive Raised : Link → Link → Prop where
  | refl (l : Link) : Raised l l
  | step {l m : Link} (k : NoticeKind) (fs : List Field) : Raised l m → Raised l (m.raise k fs)

theorem Raised.trans {a b c : Link} (h : Raised a b) (g : Raised b c) : Raised a c := by
  induction g with
  | refl => exact h
  | step k fs _ ih => exact .step k fs ih

/-- Every port within its bounds. -/
def State.portsBounded (s : State) : Prop := ∀ p, (s.port p).bounded

/-- `t` comes from `s` by changes to the parts of `P` and by notices alone. -/
structure Changes (P : Parts) (s t : State) : Prop where
  module : t.module = s.module
  now : t.now = s.now
  flash : t.flash = s.flash
  transmit : t.transmit = s.transmit
  retention : t.retention = s.retention
  pending : t.pending = s.pending
  signature : t.dir.signature = s.dir.signature
  store : P.store = true ∨ t.dir.blocks = s.dir.blocks ∧ t.dir.pool = s.dir.pool ∧
    t.dir.recordings = s.dir.recordings ∧ t.dir.poolLevel = s.dir.poolLevel
  boxes : P.boxes = true ∨ t.dir.boxes = s.dir.boxes ∧ t.dir.entries = s.dir.entries
  settings : P.settings = true ∨
    t.dir.settings = s.dir.settings ∧ t.dir.profiles = s.dir.profiles
  prompts : P.prompts = true ∨ t.dir.prompts = s.dir.prompts
  lists : P.lists = true ∨ t.dir.lists = s.dir.lists
  cache : P.cache = true ∨ t.cache = s.cache
  ports : P.ports = true ∨ t.ports = s.ports
  jobs : P.jobs = true ∨ t.jobs = s.jobs
  lamps : P.lamps = true ∨ t.lamps = s.lamps ∧ t.lampQueue = s.lampQueue ∧ t.line = s.line
  link : Raised s.link t.link
  lineIn : s.line.bounded → t.line.bounded
  portsIn : s.portsBounded → t.portsBounded
  jobsIn : s.jobs.length ≤ Config.maxJobs → t.jobs.length ≤ Config.maxJobs
  dirIn : s.dir.canonical → t.dir.canonical
  cacheIn : s.cache.canonical → t.cache.canonical
  portsWf : s.ports.wf Port.cold = true → t.ports.wf Port.cold = true
  lampsWf : s.lamps.wf Lamp.unmapped = true → t.lamps.wf Lamp.unmapped = true
  shelvesWf : s.line.shelves.wf Shelf.cold = true → t.line.shelves.wf Shelf.cold = true

variable {P : Parts}

@[refl] theorem Changes.refl (s : State) : Changes P s s where
  module := rfl
  now := rfl
  flash := rfl
  transmit := rfl
  retention := rfl
  pending := rfl
  signature := rfl
  store := .inr ⟨rfl, rfl, rfl, rfl⟩
  boxes := .inr ⟨rfl, rfl⟩
  settings := .inr ⟨rfl, rfl⟩
  prompts := .inr rfl
  lists := .inr rfl
  cache := .inr rfl
  ports := .inr rfl
  jobs := .inr rfl
  lamps := .inr ⟨rfl, rfl, rfl⟩
  link := .refl _
  lineIn := id
  portsIn := id
  jobsIn := id
  dirIn := id
  cacheIn := id
  portsWf := id
  lampsWf := id
  shelvesWf := id

theorem Changes.trans {a b c : State} (h : Changes P a b) (g : Changes P b c) : Changes P a c where
  module := g.module.trans h.module
  now := g.now.trans h.now
  flash := g.flash.trans h.flash
  transmit := g.transmit.trans h.transmit
  retention := g.retention.trans h.retention
  pending := g.pending.trans h.pending
  signature := g.signature.trans h.signature
  store := by
    rcases h.store with h | ⟨a, b, c, d⟩
    · exact .inl h
    · rcases g.store with g | ⟨e, f, i, j⟩
      · exact .inl g
      · exact .inr ⟨e.trans a, f.trans b, i.trans c, j.trans d⟩
  boxes := by
    rcases h.boxes with h | ⟨a, b⟩
    · exact .inl h
    · rcases g.boxes with g | ⟨e, f⟩
      · exact .inl g
      · exact .inr ⟨e.trans a, f.trans b⟩
  settings := by
    rcases h.settings with h | ⟨a, b⟩
    · exact .inl h
    · rcases g.settings with g | ⟨e, f⟩
      · exact .inl g
      · exact .inr ⟨e.trans a, f.trans b⟩
  prompts := h.prompts.elim .inl fun a => g.prompts.imp id fun b => b.trans a
  lists := h.lists.elim .inl fun a => g.lists.imp id fun b => b.trans a
  cache := h.cache.elim .inl fun a => g.cache.imp id fun b => b.trans a
  ports := h.ports.elim .inl fun a => g.ports.imp id fun b => b.trans a
  jobs := h.jobs.elim .inl fun a => g.jobs.imp id fun b => b.trans a
  lamps := by
    rcases h.lamps with h | ⟨a, b, c⟩
    · exact .inl h
    · rcases g.lamps with g | ⟨e, f, i⟩
      · exact .inl g
      · exact .inr ⟨e.trans a, f.trans b, i.trans c⟩
  link := h.link.trans g.link
  lineIn := g.lineIn ∘ h.lineIn
  portsIn := g.portsIn ∘ h.portsIn
  jobsIn := g.jobsIn ∘ h.jobsIn
  dirIn := g.dirIn ∘ h.dirIn
  cacheIn := g.cacheIn ∘ h.cacheIn
  portsWf := g.portsWf ∘ h.portsWf
  lampsWf := g.lampsWf ∘ h.lampsWf
  shelvesWf := g.shelvesWf ∘ h.shelvesWf

/-- An operation repeated over a list. -/
theorem Changes.foldl {α : Type} {f : State → α → State} (h : ∀ s a, Changes P s (f s a)) (l : List α)
    (s : State) : Changes P s (l.foldl f s) := by
  induction l generalizing s with
  | nil => exact .refl s
  | cons a rest ih => exact (h s a).trans (ih (f s a))

/-- A condition that decides between two operations. -/
theorem Changes.ite {c : Prop} [Decidable c] {s t u : State} (ht : Changes P s t) (hu : Changes P s u) :
    Changes P s (if c then t else u) := by split <;> assumption

/-- `t` comes from `s` by changes to the parts of `P` and by notices alone, and the books of the block
store and of the Lamp Unit are kept. -/
structure Moves (P : Parts) (s t : State) : Prop extends Changes P s t where
  storeIn : s.dir.canonical → StoreBooks s.dir → StoreBooks t.dir
  lampsIn : s.lamps.wf Lamp.unmapped = true → s.line.bounded → LampBooks s → LampBooks t

@[refl] theorem Moves.refl (s : State) : Moves P s s := ⟨.refl s, fun _ => id, fun _ _ => id⟩

theorem Moves.trans {a b c : State} (h : Moves P a b) (g : Moves P b c) : Moves P a c :=
  ⟨h.toChanges.trans g.toChanges, fun d => g.storeIn (h.dirIn d) ∘ h.storeIn d,
    fun w l => g.lampsIn (h.lampsWf w) (h.lineIn l) ∘ h.lampsIn w l⟩

/-- An operation repeated over a list. -/
theorem Moves.foldl {α : Type} {f : State → α → State} (h : ∀ s a, Moves P s (f s a)) (l : List α)
    (s : State) : Moves P s (l.foldl f s) := by
  induction l generalizing s with
  | nil => exact .refl s
  | cons a rest ih => exact (h s a).trans (ih (f s a))

/-- A condition that decides between two operations. -/
theorem Moves.ite {c : Prop} [Decidable c] {s t u : State} (ht : Moves P s t) (hu : Moves P s u) :
    Moves P s (if c then t else u) := by split <;> assumption

/-- The Lamp Unit's books hang on the records, the queue and the orders alone. -/
theorem LampBooks.same {s t : State} (h : LampBooks s) (hl : t.lamps = s.lamps)
    (hq : t.lampQueue = s.lampQueue) (ho : t.line.orders = s.line.orders) : LampBooks t := by
  have l (b : Nat) : t.lamp b = s.lamp b := by unfold State.lamp; rw [hl]
  refine ⟨hq ▸ h.once, fun b => ?_, fun b => ?_, ?_, fun b => ?_, fun a b st => ?_⟩
  · rw [hq, l]; exact h.queued b
  · rw [l, ho]; exact h.flying b
  · rw [ho]; simp only [l]; exact h.served
  · rw [l]; exact h.unmapped b
  · rw [l, l]; exact h.apart a b st

/-- A change that leaves the block store and the lamps alone keeps their books. -/
theorem Changes.apart {s t : State} (h : Changes P s t) (hb : t.dir.blocks = s.dir.blocks)
    (hp : t.dir.pool = s.dir.pool) (hr : t.dir.recordings = s.dir.recordings)
    (hl : t.lamps = s.lamps) (hq : t.lampQueue = s.lampQueue)
    (ho : t.line.orders = s.line.orders) : Moves P s t :=
  ⟨h, fun _ g => g.same hb hp hr, fun _ _ g => g.same hl hq ho⟩

/-- A change of the block store and the cache that keeps the store's books. -/
theorem Moves.ofStore {s t : State}
    (h : ∀ Q : Parts, Q.store = true → Q.cache = true → Changes Q s t)
    (hs : P.store = true) (hc : P.cache = true)
    (hk : s.dir.canonical → StoreBooks s.dir → StoreBooks t.dir) : Moves P s t := by
  have g := (h ⟨true, false, false, false, false, true, false, false, false⟩ rfl rfl).lamps
  simp only [Bool.false_eq_true, false_or] at g
  exact ⟨h P hs hc, hk, fun _ _ b => b.same g.1 g.2.1 (by rw [g.2.2])⟩

/-- A change of the lamps that keeps their books. -/
theorem Moves.ofLamps {s t : State} (h : ∀ Q : Parts, Q.lamps = true → Changes Q s t)
    (hl : P.lamps = true)
    (hk : s.lamps.wf Lamp.unmapped = true → s.line.bounded → LampBooks s → LampBooks t) :
    Moves P s t := by
  have g := (h ⟨false, false, false, false, false, false, false, false, true⟩ rfl).store
  simp only [Bool.false_eq_true, false_or] at g
  exact ⟨h P hl, fun _ b => b.same g.1 g.2.1 g.2.2.1, hk⟩

/-! ## The writers -/

theorem State.raise_moves (s : State) (k : NoticeKind) (fs : List Field) : Moves P s (s.raise k fs) :=
  Changes.apart { Changes.refl (P := P) s with link := .step k fs (.refl _) } rfl rfl rfl rfl rfl rfl

theorem State.onCache_moves (hc : P.cache = true) (s : State) {f : Cache → Cache}
    (hf : ∀ c, c.canonical → (f c).canonical) : Moves P s (s.onCache f) :=
  Changes.apart { Changes.refl (P := P) s with cache := .inl hc, cacheIn := hf _ } rfl rfl rfl rfl rfl rfl

theorem State.withCache_moves (hc : P.cache = true) (s : State) {c : Cache}
    (hf : s.cache.canonical → c.canonical) : Moves P s { s with cache := c } :=
  Changes.apart { Changes.refl (P := P) s with cache := .inl hc, cacheIn := hf } rfl rfl rfl rfl rfl rfl

theorem State.setBlock_changes (hs : P.store = true) (s : State) (b : Nat) (st : BlockStatus) :
    Changes P s (s.setBlock b st) :=
  { Changes.refl (P := P) s with
    store := .inl hs
    dirIn := fun ⟨a, b, c, d, e, f, g⟩ => ⟨Table.put_sorted _ _ _ a, b, c, d, e, f, g⟩ }

theorem State.setRecording_changes (hs : P.store = true) (s : State) (r : Nat) (v : Recording) :
    Changes P s (s.setRecording r v) :=
  { Changes.refl (P := P) s with
    store := .inl hs
    dirIn := fun ⟨a, b, c, d, e, f, g⟩ => ⟨a, Table.put_sorted _ _ _ b, c, d, e, f, g⟩ }

theorem State.emptyRecording_changes (hs : P.store = true) (s : State) (r : Nat) :
    Changes P s (s.emptyRecording r) :=
  { Changes.refl (P := P) s with
    store := .inl hs
    dirIn := fun ⟨a, b, c, d, e, f, g⟩ => ⟨a, Table.drop_sorted _ _ b, c, d, e, f, g⟩ }

theorem State.onRecording_changes (hs : P.store = true) (s : State) (r : Nat)
    (f : Recording → Recording) : Changes P s (s.onRecording r f) := by
  unfold State.onRecording
  split
  · exact .refl s
  · exact s.setRecording_changes hs _ _

theorem State.setPool_changes (hs : P.store = true) (s : State) (f : Directory → Pool) :
    Changes P s (s.onDir fun d => { d with pool := f d }) :=
  { Changes.refl (P := P) s with store := .inl hs, dirIn := id }

theorem State.setBox_moves (hb : P.boxes = true) (s : State) (b : Nat) (v : Box) :
    Moves P s (s.setBox b v) :=
  Changes.apart { Changes.refl (P := P) s with
    boxes := .inl hb
    dirIn := fun ⟨a, b, c, d, e, f, g⟩ => ⟨a, b, Table.write_wf _ _ _ _ c, d, e, f, g⟩ } rfl rfl rfl rfl rfl rfl

theorem State.onBox_moves (hb : P.boxes = true) (s : State) (b : Nat) (f : Box → Box) :
    Moves P s (s.onBox b f) := s.setBox_moves hb b _

theorem State.setEntry_moves (hb : P.boxes = true) (s : State) (e : Nat) (v : Entry) :
    Moves P s (s.setEntry e v) :=
  Changes.apart { Changes.refl (P := P) s with
    boxes := .inl hb
    dirIn := fun ⟨a, b, c, d, e, f, g⟩ => ⟨a, b, c, Table.put_sorted _ _ _ d, e, f, g⟩ } rfl rfl rfl rfl rfl rfl

theorem State.freeEntry_moves (hb : P.boxes = true) (s : State) (e : Nat) :
    Moves P s (s.freeEntry e) :=
  Changes.apart { Changes.refl (P := P) s with
    boxes := .inl hb
    dirIn := fun ⟨a, b, c, d, e, f, g⟩ => ⟨a, b, c, Table.drop_sorted _ _ d, e, f, g⟩ } rfl rfl rfl rfl rfl rfl

theorem State.setMembers_moves (hl : P.lists = true) (s : State) (l : Nat) (ms : List Nat) :
    Moves P s (s.setMembers l ms) :=
  Changes.apart { Changes.refl (P := P) s with
    lists := .inl hl
    dirIn := fun ⟨a, b, c, d, e, f, g⟩ => ⟨a, b, c, d, e, Table.put_sorted _ _ _ f, g⟩ } rfl rfl rfl rfl rfl rfl

theorem State.dropList_moves (hl : P.lists = true) (s : State) (l : Nat) :
    Moves P s (s.onDir fun d => { d with lists := d.lists.drop l }) :=
  Changes.apart { Changes.refl (P := P) s with
    lists := .inl hl
    dirIn := fun ⟨a, b, c, d, e, f, g⟩ => ⟨a, b, c, d, e, Table.drop_sorted _ _ f, g⟩ } rfl rfl rfl rfl rfl rfl

theorem State.putPrompt_moves (hp : P.prompts = true) (s : State) (n r : Nat) :
    Moves P s (s.onDir fun d => { d with prompts := d.prompts.put n r }) :=
  Changes.apart { Changes.refl (P := P) s with
    prompts := .inl hp
    dirIn := fun ⟨a, b, c, d, e, f, g⟩ => ⟨a, b, c, d, Table.put_sorted _ _ _ e, f, g⟩ } rfl rfl rfl rfl rfl rfl

theorem State.dropPrompt_moves (hp : P.prompts = true) (s : State) (n : Nat) :
    Moves P s (s.onDir fun d => { d with prompts := d.prompts.drop n }) :=
  Changes.apart { Changes.refl (P := P) s with
    prompts := .inl hp
    dirIn := fun ⟨a, b, c, d, e, f, g⟩ => ⟨a, b, c, d, Table.drop_sorted _ _ e, f, g⟩ } rfl rfl rfl rfl rfl rfl

theorem State.onSettings_moves (hs : P.settings = true) (s : State) {f : Settings → Settings}
    (hf : ∀ st, st.depths.wf 16 = true → (f st).depths.wf 16 = true) :
    Moves P s (s.onSettings f) :=
  Changes.apart { Changes.refl (P := P) s with
    settings := .inl hs
    dirIn := fun ⟨a, b, c, d, e, f, g⟩ => ⟨a, b, c, d, e, f, hf _ g⟩ } rfl rfl rfl rfl rfl rfl

theorem State.setProfiles_moves (hs : P.settings = true) (s : State) (f : Directory → Profiles) :
    Moves P s (s.onDir fun d => { d with profiles := f d }) :=
  Changes.apart { Changes.refl (P := P) s with settings := .inl hs, dirIn := id } rfl rfl rfl rfl rfl rfl

theorem State.setPort_moves (hp : P.ports = true) (s : State) (p : Nat) {v : Port}
    (hv : (s.port p).bounded → v.bounded) : Moves P s (s.setPort p v) :=
  Changes.apart { Changes.refl (P := P) s with
    ports := .inl hp
    portsIn := fun h q => by
      by_cases e : q = p
      · subst e; rw [s.port_setPort]; exact hv (h q)
      · rw [s.port_setPort_other v e]; exact h q
    portsWf := Table.write_wf _ _ _ _ } rfl rfl rfl rfl rfl rfl

theorem State.onPort_moves (hp : P.ports = true) (s : State) (p : Nat) {f : Port → Port}
    (hf : ∀ q, q.bounded → (f q).bounded) : Moves P s (s.onPort p f) :=
  s.setPort_moves hp p (hf _)

theorem State.onJobs_moves (hj : P.jobs = true) (s : State) {f : List Job → List Job}
    (hf : ∀ js, (f js).length ≤ js.length) : Moves P s (s.onJobs f) :=
  Changes.apart { Changes.refl (P := P) s with jobs := .inl hj, jobsIn := fun h => le_trans (hf _) h } rfl rfl rfl rfl rfl rfl

theorem State.onLamp_changes (hl : P.lamps = true) (s : State) (b : Nat) (f : Lamp → Lamp) :
    Changes P s (s.onLamp b f) :=
  { Changes.refl (P := P) s with lamps := .inl hl, lampsWf := Table.write_wf _ _ _ _ }

theorem State.onLampQueue_changes (hl : P.lamps = true) (s : State) (f : List Nat → List Nat) :
    Changes P s (s.onLampQueue f) :=
  { Changes.refl (P := P) s with lamps := .inl hl }

theorem State.onLine_changes (hl : P.lamps = true) (s : State) {f : LampLine → LampLine}
    (hf : s.line.bounded → (f s.line).bounded) (hs : (f s.line).shelves = s.line.shelves) :
    Changes P s (s.onLine f) :=
  { Changes.refl (P := P) s with
    lamps := .inl hl
    lineIn := hf
    shelvesWf := fun h => by rw [State.onLine_line, hs]; exact h }

theorem State.onShelf_moves (hl : P.lamps = true) (s : State) (n : Nat) (f : Shelf → Shelf) :
    Moves P s (s.onShelf n f) :=
  Changes.apart { Changes.refl (P := P) s with
    lamps := .inl hl
    lineIn := id
    shelvesWf := Table.write_wf _ _ _ _ } rfl rfl rfl rfl rfl rfl

/-! ## The Block Cache keeps its canonical form -/

theorem Cache.setLine_canonical {c : Cache} (h : c.canonical) (n : Nat) (v : Line) :
    (c.setLine n v).canonical := ⟨Table.write_wf _ _ _ _ h.1, h.2⟩

theorem Cache.pin_canonical {c : Cache} (h : c.canonical) (p n : Nat) : (c.pin p n).canonical :=
  ⟨h.1, Table.put_sorted _ _ _ h.2⟩

theorem Cache.schedule_canonical {c : Cache} (h : c.canonical) : c.schedule.canonical := by
  unfold Cache.schedule
  split
  · exact h
  · split
    · split
      · exact ⟨Table.write_wf _ _ _ _ h.1, h.2⟩
      · exact h
    · split
      · exact h
      · exact ⟨Table.write_wf _ _ _ _ h.1, h.2⟩
      · exact h
      · exact h

theorem Cache.queueFill_canonical {c : Cache} (h : c.canonical) (n : Nat) (u : Bool) :
    (c.queueFill n u).canonical := by
  unfold Cache.queueFill
  split <;> exact Cache.schedule_canonical h

theorem Cache.queueWrite_canonical {c : Cache} (h : c.canonical) (n : Nat) :
    (c.queueWrite n).canonical := by
  unfold Cache.queueWrite
  split
  · exact h
  · exact Cache.schedule_canonical h

theorem Cache.promote_canonical {c : Cache} (h : c.canonical) : c.promote.canonical := by
  unfold Cache.promote
  split
  · exact h
  · exact Cache.queueWrite_canonical h _

theorem Cache.beginFill_canonical {c : Cache} (h : c.canonical) (n b : Nat) (u : Bool) :
    (c.beginFill n b u).canonical :=
  Cache.queueFill_canonical (c := (c.setLine n ⟨.filling, some b, false, []⟩).use n)
    (Cache.setLine_canonical h n _) _ _

theorem Cache.setUp_canonical {c : Cache} (h : c.canonical) (n b p : Nat) (k : Coding) :
    (c.setUp n b p k).canonical := Cache.pin_canonical (Cache.setLine_canonical h n _) _ _

theorem Cache.serve_canonical {c : Cache} (h : c.canonical) (n : Nat) (e : WaitEntry) :
    (c.serve n e).canonical := by
  unfold Cache.serve
  split
  · exact Cache.beginFill_canonical h _ _ _
  · exact Cache.setUp_canonical h _ _ _ _

theorem Cache.retryFrom_canonical (q : List WaitEntry) {c : Cache} (h : c.canonical) :
    (c.retryFrom q).canonical := by
  induction q generalizing c with
  | nil => exact h
  | cons e rest ih =>
    unfold Cache.retryFrom
    split
    · exact Cache.promote_canonical h
    · exact ih (Cache.serve_canonical (c := { c with waitQueue := rest }) h _ _)

theorem Cache.retry_canonical {c : Cache} (h : c.canonical) : c.retry.canonical :=
  Cache.retryFrom_canonical _ h

theorem Cache.unpin_canonical {c : Cache} (h : c.canonical) (p : Nat) : (c.unpin p).canonical := by
  unfold Cache.unpin
  split
  · exact h
  · have g : ({ c with pins := c.pins.drop p } : Cache).canonical := ⟨h.1, Table.drop_sorted _ _ h.2⟩
    dsimp only
    split
    · exact Cache.retry_canonical g
    · exact g

theorem Cache.await_canonical {c : Cache} (h : c.canonical) (e : WaitEntry) :
    (c.await e).1.canonical := by
  have g := Cache.promote_canonical h
  unfold Cache.await
  dsimp only
  split <;> exact g

theorem Cache.touch_canonical {c : Cache} (h : c.canonical) (b : Nat) (u : Bool) (p : Nat) :
    (c.touch b u p).1.canonical := by
  unfold Cache.touch
  split
  · split
    · exact Cache.queueFill_canonical (Cache.setLine_canonical (c := c.use _) h _ _) _ _
    · exact h
  · split
    · split <;> exact h
    · split
      · exact Cache.beginFill_canonical h _ _ _
      · have g := Cache.await_canonical h ⟨.touch u, b, p⟩
        split <;> simp_all

theorem Cache.establish_canonical {c : Cache} (h : c.canonical) (b : Nat) (k : Coding) (p : Nat) :
    (c.establish b k p).1.canonical := by
  unfold Cache.establish
  split
  · exact Cache.setUp_canonical h _ _ _ _
  · have g := Cache.await_canonical h ⟨.establish k, b, p⟩
    split <;> simp_all

theorem Cache.clearPins_canonical {c : Cache} (h : c.canonical) (n : Nat) :
    (c.clearPins n).canonical :=
  ⟨h.1, (Table.sorted_iff _).2
    (List.Pairwise.sublist (List.Sublist.map Prod.fst List.filter_sublist)
      ((Table.sorted_iff _).1 h.2))⟩

theorem Cache.invalidate_canonical {c : Cache} (h : c.canonical) (n : Nat) :
    (c.invalidate n).canonical :=
  Cache.retry_canonical
    (Cache.setLine_canonical (Cache.clearPins_canonical (c := c.withdraw n) h n) n _)

theorem Cache.discard_canonical {c : Cache} (h : c.canonical) (b : Nat) :
    (c.discard b).1.canonical := by
  have g : ({ c with waitQueue := c.waitQueue.filter (fun e => e.block != b) } : Cache).canonical := h
  unfold Cache.discard
  dsimp only
  split
  · exact g
  · split
    · exact Cache.setLine_canonical (Cache.clearPins_canonical g _) _ _
    · split
      · exact Cache.setLine_canonical (Cache.clearPins_canonical g _) _ _
      · exact Cache.invalidate_canonical g _

theorem Cache.flush_canonical {c : Cache} (h : c.canonical) (b : Nat) : (c.flush b).canonical := by
  unfold Cache.flush
  split
  · exact h
  · split
    · exact Cache.queueWrite_canonical h _
    · exact h

theorem Cache.moveOn_canonical {c : Cache} (h : c.canonical) (p n : Nat) :
    (c.moveOn p n).canonical := by
  have g : ({ c with pins := c.pins.drop p } : Cache).canonical := ⟨h.1, Table.drop_sorted _ _ h.2⟩
  unfold Cache.moveOn
  by_cases e : c.pins.find p = some n
  · simp only [e, if_true]
    split
    · exact Cache.queueWrite_canonical g _
    · exact g
  · simp only [e, if_false]
    split
    · exact Cache.queueWrite_canonical h _
    · exact h

theorem Cache.retag_canonical {c : Cache} (h : c.canonical) (b b' : Nat) :
    (c.retag b b').canonical := by
  unfold Cache.retag
  split
  · exact h
  · exact Cache.queueWrite_canonical (Cache.setLine_canonical h _ _) _

theorem Cache.endFill_canonical {c : Cache} (h : c.canonical) (n : Nat) (d : Option (List Byte)) :
    (c.endFill n d).canonical := by
  unfold Cache.endFill
  dsimp only
  split
  · exact Cache.setLine_canonical h _ _
  · split <;> exact Cache.setLine_canonical h _ _

theorem Cache.endWrite_canonical {c : Cache} (h : c.canonical) (n : Nat) (u : Bool) :
    (c.endWrite n u).canonical := by
  unfold Cache.endWrite
  dsimp only
  split <;> exact Cache.setLine_canonical h _ _

theorem Cache.afterCompletion_canonical {c : Cache} (h : c.canonical) (n : Nat) :
    (c.afterCompletion n).canonical := by
  unfold Cache.afterCompletion
  by_cases e : c.available n = true
  · simp only [e, if_true]
    exact Cache.schedule_canonical (c := { c.retry with inFlight := none }) (Cache.retry_canonical h)
  · simp only [e]
    exact Cache.schedule_canonical (c := { c with inFlight := none }) h

end Sys2Proof.Machine
end

