-- ==== Sys2Proof/Laws/LampBooks.lean ====
section
/-! SUPPORT. The books of the Lamp Unit: what the operations on lamp records, the lamp queue and the
orders do to them. `LampBooksBut` says how they stand while one record is between two states. -/

namespace Sys2Proof.Machine

/-- The books of the Lamp Unit but for the boxes of `p`, which stand in no queue and in no order. -/
structure LampBooksBut (p : Nat → Prop) (s : State) : Prop where
  once : s.lampQueue.Nodup
  queued : ∀ c, ¬ p c → (c ∈ s.lampQueue ↔ (s.lamp c).state = .queued)
  out : ∀ c, p c → c ∉ s.lampQueue
  flying : ∀ c, ¬ p c → (s.lamp c).state = .inFlight → ∃ o ∈ s.line.orders, o.box = some c
  served : ∀ o ∈ s.line.orders, ∀ c, o.box = some c → ¬ p c ∧ (s.lamp c).state = .inFlight ∧
    (s.lamp c).station = some (o.shelf, o.station) ∧ (s.lamp c).sent = some o.cadence
  unmapped : ∀ c, ¬ p c → (s.lamp c).station = none → (s.lamp c).state = .settled
  apart : ∀ a c st, (s.lamp a).station = some st → (s.lamp c).station = some st → a = c

variable {s t : State} {b : Nat} {p q : Nat → Prop}

theorem LampBooksBut.whole (h : LampBooksBut p s) (hp : ∀ c, ¬ p c) : LampBooks s where
  once := h.once
  queued c := h.queued c (hp c)
  flying c := h.flying c (hp c)
  served o ho c hc := (h.served o ho c hc).2
  unmapped c := h.unmapped c (hp c)
  apart := h.apart

theorem LampBooks.allIn (h : LampBooks s) : LampBooksBut (fun _ => False) s where
  once := h.once
  queued c _ := h.queued c
  out _ f := f.elim
  flying c _ := h.flying c
  served o ho c hc := ⟨id, h.served o ho c hc⟩
  unmapped c _ := h.unmapped c
  apart := h.apart

theorem LampBooksBut.congr (h : LampBooksBut p s) (g : ∀ c, q c ↔ p c) : LampBooksBut q s := by
  have e : q = p := funext fun c => propext (g c)
  exact e ▸ h

/-- A record that is neither QUEUED nor IN_FLIGHT is taken out of the books. -/
theorem LampBooksBut.more (h : LampBooksBut p s) (hb : ¬ p b) (hq : (s.lamp b).state ≠ .queued)
    (hf : (s.lamp b).state ≠ .inFlight) : LampBooksBut (fun c => p c ∨ c = b) s where
  once := h.once
  queued c g := h.queued c fun k => g (.inl k)
  out c g m := by
    rcases g with g | rfl
    · exact h.out c g m
    · exact hq ((h.queued c hb).1 m)
  flying c g := h.flying c fun k => g (.inl k)
  served o ho c hc := by
    have k := h.served o ho c hc
    refine ⟨?_, k.2⟩
    rintro (g | rfl)
    · exact k.1 g
    · exact hf k.2.1
  unmapped c g := h.unmapped c fun k => g (.inl k)
  apart := h.apart

theorem LampBooks.but (h : LampBooks s) (hq : (s.lamp b).state ≠ .queued)
    (hf : (s.lamp b).state ≠ .inFlight) : LampBooksBut (· = b) s :=
  (h.allIn.more (fun k => k) hq hf).congr (by simp)

/-- A record out of the books, in a state that is neither QUEUED nor IN_FLIGHT, is in order again. -/
theorem LampBooksBut.less (h : LampBooksBut p s) (hb : p b) (hq : (s.lamp b).state ≠ .queued)
    (hf : (s.lamp b).state ≠ .inFlight)
    (hu : (s.lamp b).station = none → (s.lamp b).state = .settled) :
    LampBooksBut (fun c => p c ∧ c ≠ b) s where
  once := h.once
  queued c g := by
    by_cases e : c = b
    · subst e; simp [h.out c hb, hq]
    · exact h.queued c fun k => g ⟨k, e⟩
  out c g := h.out c g.1
  flying c g k := by
    by_cases e : c = b
    · subst e; exact absurd k hf
    · exact h.flying c (fun m => g ⟨m, e⟩) k
  served o ho c hc := by
    have k := h.served o ho c hc
    exact ⟨fun g => k.1 g.1, k.2⟩
  unmapped c g k := by
    by_cases e : c = b
    · subst e; exact hu k
    · exact h.unmapped c (fun m => g ⟨m, e⟩) k
  apart := h.apart

theorem LampBooksBut.rest (h : LampBooksBut (· = b) s) (hq : (s.lamp b).state ≠ .queued)
    (hf : (s.lamp b).state ≠ .inFlight)
    (hu : (s.lamp b).station = none → (s.lamp b).state = .settled) : LampBooks s :=
  (h.less rfl hq hf hu).whole fun _ g => g.2 g.1

theorem LampBooksBut.same (h : LampBooksBut p s) (hl : t.lamps = s.lamps)
    (hq : t.lampQueue = s.lampQueue) (ho : t.line.orders = s.line.orders) : LampBooksBut p t := by
  have l (c : Nat) : t.lamp c = s.lamp c := by unfold State.lamp; rw [hl]
  refine ⟨hq ▸ h.once, fun c => ?_, hq ▸ h.out, fun c => ?_, ?_, fun c => ?_, fun a c st => ?_⟩
  · rw [hq, l]; exact h.queued c
  · rw [l, ho]; exact h.flying c
  · rw [ho]; simp only [l]; exact h.served
  · rw [l]; exact h.unmapped c
  · rw [l, l]; exact h.apart a c st

/-- A record out of the books takes other values. -/
theorem LampBooksBut.put (h : LampBooksBut p s) (hb : p b) (f : Lamp → Lamp)
    (hst : ∀ st, (f (s.lamp b)).station = some st → ∀ c, c ≠ b → (s.lamp c).station ≠ some st) :
    LampBooksBut p (s.onLamp b f) := by
  have o (c : Nat) (e : c ≠ b) : (s.onLamp b f).lamp c = s.lamp c := s.lamp_onLamp_other f e
  have ne (c : Nat) (g : ¬ p c) : c ≠ b := fun e => g (e ▸ hb)
  refine ⟨h.once, fun c e => ?_, h.out, fun c e => ?_, fun x hx c hc => ?_, fun c e => ?_,
    fun a c st ha hc => ?_⟩
  · rw [o c (ne c e)]; exact h.queued c e
  · rw [o c (ne c e)]; exact h.flying c e
  · have g := h.served x hx c hc
    rw [o c (ne c g.1)]; exact g
  · rw [o c (ne c e)]; exact h.unmapped c e
  · by_cases ea : a = b
    · by_cases ec : c = b
      · rw [ea, ec]
      · rw [ea, s.lamp_onLamp b f] at ha
        rw [o c ec] at hc
        exact absurd hc (hst st ha c ec)
    · rw [o a ea] at ha
      by_cases ec : c = b
      · rw [ec, s.lamp_onLamp b f] at hc
        exact absurd ha (hst st hc a ea)
      · rw [o c ec] at hc
        exact h.apart a c st ha hc

/-- A record out of the books takes other values and keeps its station. -/
theorem LampBooksBut.change (h : LampBooksBut p s) (hb : p b) (f : Lamp → Lamp)
    (hst : (f (s.lamp b)).station = (s.lamp b).station) : LampBooksBut p (s.onLamp b f) :=
  h.put hb f fun _ g _ hc k => hc (h.apart _ _ _ k (hst ▸ g))

/-- A record changes and stays in the state it has. -/
theorem LampBooksBut.tweak (h : LampBooksBut p s) (f : Lamp → Lamp)
    (hf : (f (s.lamp b)).station = (s.lamp b).station ∧ (f (s.lamp b)).state = (s.lamp b).state ∧
      ((s.lamp b).state = .inFlight → (f (s.lamp b)).sent = (s.lamp b).sent)) :
    LampBooksBut p (s.onLamp b f) := by
  have l (c : Nat) : ((s.onLamp b f).lamp c).station = (s.lamp c).station ∧
      ((s.onLamp b f).lamp c).state = (s.lamp c).state ∧
      ((s.lamp c).state = .inFlight → ((s.onLamp b f).lamp c).sent = (s.lamp c).sent) := by
    by_cases e : c = b
    · subst e; rw [s.lamp_onLamp c f]; exact hf
    · rw [s.lamp_onLamp_other f e]; simp
  refine ⟨h.once, fun c => ?_, h.out, fun c => ?_, fun o ho c hc => ?_, fun c => ?_, fun a c st => ?_⟩
  · rw [(l c).2.1]; exact h.queued c
  · rw [(l c).2.1]; exact h.flying c
  · have g := h.served o ho c hc
    rw [(l c).2.1, (l c).1, (l c).2.2 g.2.1]; exact g
  · rw [(l c).1, (l c).2.1]; exact h.unmapped c
  · rw [(l a).1, (l c).1]; exact h.apart a c st

theorem LampBooks.tweak (h : LampBooks s) (f : Lamp → Lamp)
    (hf : (f (s.lamp b)).station = (s.lamp b).station ∧ (f (s.lamp b)).state = (s.lamp b).state ∧
      ((s.lamp b).state = .inFlight → (f (s.lamp b)).sent = (s.lamp b).sent)) :
    LampBooks (s.onLamp b f) := (h.allIn.tweak f hf).whole fun _ => id

/-- A mapped record out of the books joins the queue. -/
theorem LampBooksBut.enqueue (h : LampBooksBut p s) (hb : p b) (hst : (s.lamp b).station ≠ none) :
    LampBooksBut (fun c => p c ∧ c ≠ b) (s.joinQueue b) := by
  have g := h.change hb (fun l =>
    { l with state := .queued, retries := 0, failReason := none, expiry := none, sent := none }) rfl
  unfold State.joinQueue
  set u := s.onLamp b fun l =>
    { l with state := .queued, retries := 0, failReason := none, expiry := none, sent := none } with hu
  have lb : u.lamp b = { s.lamp b with
      state := .queued, retries := 0, failReason := none, expiry := none, sent := none } :=
    s.lamp_onLamp b _
  refine ⟨?_, fun c m => ?_, fun c m => ?_, fun c m k => ?_, fun o ho c hc => ?_, fun c m k => ?_,
    g.apart⟩
  · refine List.nodup_append.2 ⟨g.once, by simp, ?_⟩
    rintro a ha c hc rfl
    simp only [List.mem_singleton] at hc
    exact g.out b hb (hc ▸ ha)
  · change c ∈ u.lampQueue ++ [b] ↔ (u.lamp c).state = .queued
    rw [List.mem_append, List.mem_singleton]
    by_cases e : c = b
    · subst e; simp [lb]
    · rw [g.queued c fun k => m ⟨k, e⟩]; simp [e]
  · change c ∉ u.lampQueue ++ [b]
    rw [List.mem_append, List.mem_singleton]
    exact fun k => k.elim (g.out c m.1) m.2
  · change (u.lamp c).state = .inFlight at k
    by_cases e : c = b
    · rw [e, lb] at k; cases k
    · exact g.flying c (fun k => m ⟨k, e⟩) k
  · have k := g.served o ho c hc
    exact ⟨fun m => k.1 m.1, k.2⟩
  · change (u.lamp c).station = none at k
    by_cases e : c = b
    · rw [e, lb] at k; exact absurd k hst
    · exact g.unmapped c (fun k => m ⟨k, e⟩) k

theorem LampBooksBut.join (h : LampBooksBut (· = b) s) (hst : (s.lamp b).station ≠ none) :
    LampBooks (s.joinQueue b) := (h.enqueue rfl hst).whole fun _ g => g.2 g.1

/-- A record's place in the queue is withdrawn. -/
theorem LampBooks.unqueue (h : LampBooks s) (hf : (s.lamp b).state ≠ .inFlight) :
    LampBooksBut (· = b) (s.onLampQueue (List.erase · b)) where
  once := h.once.erase b
  queued c e := by
    change c ∈ s.lampQueue.erase b ↔ _
    rw [List.mem_erase_of_ne e]; exact h.queued c
  out := by rintro c rfl; exact h.once.not_mem_erase
  flying c _ := h.flying c
  served o ho c hc := ⟨fun e => hf (e ▸ (h.served o ho c hc).1), h.served o ho c hc⟩
  unmapped c _ := h.unmapped c
  apart := h.apart

/-- The box link of a record's order is cut. -/
theorem LampBooks.cut (h : LampBooks s) (hq : (s.lamp b).state ≠ .queued) :
    LampBooksBut (· = b) (s.cutLink b) where
  once := h.once
  queued c _ := h.queued c
  out := by rintro c rfl m; exact hq ((h.queued c).1 m)
  flying c e k := by
    obtain ⟨o, ho, hc⟩ := h.flying c k
    refine ⟨o, List.mem_map.2 ⟨o, ho, ?_⟩, hc⟩
    rw [if_neg]; rw [hc]; simpa using e
  served x hx c hc := by
    obtain ⟨o, ho, rfl⟩ := List.mem_map.1 hx
    by_cases k : o.box = some b
    · rw [if_pos k] at hc; cases hc
    · rw [if_neg k] at hc ⊢
      exact ⟨fun e => k (e ▸ hc), h.served o ho c hc⟩
  unmapped c _ := h.unmapped c
  apart := h.apart

/-- The slot of an order that serves a record is freed. -/
theorem LampBooks.free (h : LampBooks s) (hn : (s.line.orders.map Order.shelf).Nodup) {n : Nat}
    {o : Order} (ho : s.line.orderOf n = some o) (hb : o.box = some b) :
    LampBooksBut (· = b) (s.onLine fun l => l.freeSlot n) := by
  have om := List.mem_of_find?_eq_some ho
  have os : o.shelf = n := by simpa using List.find?_some ho
  have only (c : Order) (hc : c ∈ s.line.orders) (hs : c.shelf = n) : c = o :=
    List.inj_on_of_nodup_map hn hc om (hs.trans os.symm)
  have sb := h.served o om b hb
  have keep (c : Order) : c ∈ (s.line.freeSlot n).orders ↔ c ∈ s.line.orders ∧ c.shelf ≠ n := by
    simp [LampLine.freeSlot, List.mem_filter]
  refine ⟨h.once, fun c _ => h.queued c, ?_, fun c e k => ?_, fun c hc d hd => ?_,
    fun c _ => h.unmapped c, h.apart⟩
  · rintro c rfl m
    have := (h.queued c).1 m
    rw [sb.1] at this; cases this
  · obtain ⟨x, hx, hc⟩ := h.flying c k
    refine ⟨x, (keep x).2 ⟨hx, fun f => ?_⟩, hc⟩
    have := only x hx f
    rw [this, hb] at hc
    exact e (Option.some.inj hc).symm
  · obtain ⟨hx, hne⟩ := (keep c).1 hc
    have g := h.served c hx d hd
    refine ⟨fun e => hne ?_, g⟩
    have k := g.2.1
    rw [e, sb.2.1] at k
    simp only [Option.some.injEq, Prod.mk.injEq] at k
    rw [← k.1, os]

/-- The slot of an order that serves no record is freed. -/
theorem LampBooks.freeUnlinked (h : LampBooks s) (n : Nat)
    (hb : ∀ o ∈ s.line.orders, o.shelf = n → o.box = none) :
    LampBooks (s.onLine fun l => l.freeSlot n) := by
  have keep (c : Order) : c ∈ (s.line.freeSlot n).orders ↔ c ∈ s.line.orders ∧ c.shelf ≠ n := by
    simp [LampLine.freeSlot, List.mem_filter]
  refine ⟨h.once, h.queued, fun c k => ?_, fun c hc d hd => h.served c ((keep c).1 hc).1 d hd,
    h.unmapped, h.apart⟩
  obtain ⟨x, hx, hc⟩ := h.flying c k
  refine ⟨x, (keep x).2 ⟨hx, fun f => ?_⟩, hc⟩
  rw [hb x hx f] at hc
  cases hc

/-- Orders change in what the books do not hang on. -/
theorem LampBooks.orders (h : LampBooks s) (f : LampLine → LampLine) (g : Order → Order)
    (hf : (f s.line).orders = s.line.orders.map g)
    (hg : ∀ o, (g o).box = o.box ∧ (g o).shelf = o.shelf ∧ (g o).station = o.station ∧
      (g o).cadence = o.cadence) : LampBooks (s.onLine f) := by
  refine ⟨h.once, h.queued, fun c k => ?_, fun x hx c hc => ?_, h.unmapped, h.apart⟩
  · obtain ⟨o, ho, hc⟩ := h.flying c k
    exact ⟨g o, by change _ ∈ (f s.line).orders; rw [hf]; exact List.mem_map_of_mem ho,
      (hg o).1.trans hc⟩
  · change x ∈ (f s.line).orders at hx
    rw [hf] at hx
    obtain ⟨o, ho, rfl⟩ := List.mem_map.1 hx
    rw [(hg o).1] at hc
    rw [(hg o).2.1, (hg o).2.2.1, (hg o).2.2.2]
    exact h.served o ho c hc

/-- A queued box's order goes out. -/
theorem LampBooks.send (h : LampBooks s) (probe : Bool) (hb : b ∈ s.lampQueue) :
    LampBooks (s.sendOrder b probe) := by
  unfold State.sendOrder
  split
  · exact h
  · next shelf station hst =>
    have sq := (h.queued b).1 hb
    have g := h.unqueue (b := b) (by rw [sq]; simp)
    have k := g.change rfl (fun l => { l with state := .inFlight, sent := some (s.lamp b).wanted, retries := 0 })
      rfl
    set u := (s.onLampQueue (List.erase · b)).onLamp b
      fun l => { l with state := .inFlight, sent := some (s.lamp b).wanted, retries := 0 } with hu
    have lb : u.lamp b = { s.lamp b with
        state := .inFlight, sent := some (s.lamp b).wanted, retries := 0 } :=
      (s.onLampQueue (List.erase · b)).lamp_onLamp b _
    refine ⟨k.once, fun c => ?_, fun c m => ?_, fun o ho c hc => ?_, fun c m => ?_, k.apart⟩
    · change c ∈ u.lampQueue ↔ (u.lamp c).state = .queued
      by_cases e : c = b
      · subst e; simp [k.out c rfl, lb]
      · exact k.queued c e
    · change (u.lamp c).state = .inFlight at m
      by_cases e : c = b
      · subst e; exact ⟨_, List.mem_append_right _ (List.mem_singleton.2 rfl), rfl⟩
      · obtain ⟨o, ho, hc⟩ := k.flying c e m
        exact ⟨o, List.mem_append_left _ ho, hc⟩
    · change _ ∈ u.line.orders ++ _ at ho
      change (u.lamp c).state = .inFlight ∧ (u.lamp c).station = _ ∧ (u.lamp c).sent = _
      rcases List.mem_append.1 ho with ho | ho
      · exact (k.served o ho c hc).2
      · simp only [List.mem_singleton] at ho
        subst ho
        cases hc
        rw [lb]; exact ⟨rfl, hst, rfl⟩
    · change (u.lamp c).station = none at m
      by_cases e : c = b
      · rw [e, lb] at m
        rw [show (s.lamp b).station = none from m] at hst; cases hst
      · exact k.unmapped c e m

/-- A record leaves its timer, its queue place or its order. -/
theorem LampBooks.detach (h : LampBooks s) : LampBooksBut (· = b) (s.detachLamp b) := by
  unfold State.detachLamp
  split <;> next e =>
    first
    | exact h.but (by simp [e]) (by simp [e])
    | exact (h.but (by simp [e]) (by simp [e])).change rfl _ rfl
    | exact h.unqueue (by simp [e])
    | exact h.cut (by simp [e])

/-- Leaving its place changes no record's station. -/
theorem State.detachLamp_station (s : State) (b c : Nat) :
    ((s.detachLamp b).lamp c).station = (s.lamp c).station := by
  unfold State.detachLamp
  split
  · rfl
  · rfl
  · by_cases e : c = b
    · subst e; rw [State.lamp_onLamp]
    · rw [State.lamp_onLamp_other _ _ e]
  · rfl
  · rfl

/-- A mapped record out of the books fails. -/
theorem LampBooksBut.fail (h : LampBooksBut (· = b) s) (hst : (s.lamp b).station ≠ none)
    (shelf station : Nat) (w : FailReason) (c : Option Cadence) :
    LampBooks (s.failLamp b shelf station w c) := by
  have g := h.change rfl (fun l => { l with state := .failed, failReason := some w, confirmed := none,
                                            sent := none, expiry := none }) rfl
  refine LampBooks.same (s := s.onLamp b fun l => { l with
    state := .failed, failReason := some w, confirmed := none, sent := none, expiry := none })
    (g.rest ?_ ?_ ?_) rfl rfl rfl
  · rw [State.lamp_onLamp]; simp
  · rw [State.lamp_onLamp]; simp
  · rw [State.lamp_onLamp]; exact fun k => absurd k hst

/-- Joining the queue changes no other record. -/
theorem State.joinQueue_lamp_other (s : State) {b c : Nat} (h : c ≠ b) :
    (s.joinQueue b).lamp c = s.lamp c :=
  s.lamp_onLamp_other (fun l =>
    { l with state := .queued, retries := 0, failReason := none, expiry := none, sent := none }) h

/-- Mapped records out of the queue join it, one after another. -/
theorem LampBooks.joinAll (bs : List Nat) (hn : bs.Nodup) (h : LampBooks s)
    (hb : ∀ b ∈ bs, (s.lamp b).state ≠ .queued ∧ (s.lamp b).state ≠ .inFlight ∧
      (s.lamp b).station ≠ none) : LampBooks (bs.foldl State.joinQueue s) := by
  induction bs generalizing s with
  | nil => exact h
  | cons b rest ih =>
    obtain ⟨n1, n2⟩ := List.nodup_cons.1 hn
    obtain ⟨k1, k2, k3⟩ := hb b (by simp)
    refine ih n2 ((h.but k1 k2).join k3) fun c hc => ?_
    have ne : c ≠ b := by rintro rfl; exact n1 hc
    rw [s.joinQueue_lamp_other ne]; exact hb c (List.mem_cons_of_mem _ hc)

/-- The box of a station that none has. -/
theorem State.boxAt_none {n m : Nat} (h : s.boxAt n m = none) (c : Nat) :
    (s.lamp c).station ≠ some (n, m) := by
  intro g
  unfold State.lamp Table.read at g
  cases e : s.lamps.find c with
  | none => rw [e] at g; cases g
  | some v =>
    rw [e] at g
    have k := Table.search_none h e
    simp only [Option.getD_some] at g
    simp [g] at k

theorem State.boxAt_some (hs : s.lamps.wf Lamp.unmapped = true) {n m b : Nat}
    (h : s.boxAt n m = some b) : (s.lamp b).station = some (n, m) := by
  simp only [Table.wf, Bool.and_eq_true] at hs
  obtain ⟨v, e, g⟩ := Table.search_some hs.1 h
  unfold State.lamp Table.read
  rw [e]; simpa using g

/-- The boxes of a shelf. -/
theorem State.mem_mappedTo (hs : s.lamps.wf Lamp.unmapped = true) (n b : Nat) :
    b ∈ s.mappedTo n ↔ ∃ m, (s.lamp b).station = some (n, m) := by
  simp only [Table.wf, Bool.and_eq_true] at hs
  unfold State.mappedTo
  rw [Table.mem_select hs.1]
  unfold State.lamp Table.read
  constructor
  · rintro ⟨v, e, g⟩
    rw [e]
    obtain ⟨st, g1, g2⟩ := Option.any_eq_true _ _ |>.1 g
    exact ⟨st.2, by simp at g2; simp [g1, ← g2]⟩
  · rintro ⟨m, g⟩
    cases e : s.lamps.find b with
    | none => rw [e] at g; cases g
    | some v => rw [e] at g; exact ⟨v, rfl, by simp only [Option.getD_some] at g; simp [g]⟩

theorem State.mappedTo_nodup (hs : s.lamps.wf Lamp.unmapped = true) (n : Nat) :
    (s.mappedTo n).Nodup := by
  simp only [Table.wf, Bool.and_eq_true] at hs
  exact Table.select_nodup _ hs.1

end Sys2Proof.Machine
end

