-- ==== Sys2Proof/Laws/MovesLamps.lean ====
section
/-! SUPPORT. What each operation of the Lamp Unit and the Lamp Line Interface can do: lamps, the lamp
queue and the line change, and nothing else of the module; and that it keeps the Lamp Unit's books. -/

namespace Sys2Proof.Machine

variable {P : Parts}

/-! ## The bounds of the line -/

theorem LampLine.onOrder_bounded {l : LampLine} (h : l.bounded) (n : Nat) {f : Order → Order}
    (hf : ∀ o, (f o).shelf = o.shelf) : (l.onOrder n f).bounded := by
  obtain ⟨a, b, c⟩ := h
  have e : (l.onOrder n f).orders.map Order.shelf = l.orders.map Order.shelf := by
    simp only [LampLine.onOrder, List.map_map]
    refine List.map_congr_left fun o _ => ?_
    simp only [Function.comp]
    split
    · exact hf o
    · rfl
  refine ⟨?_, ?_, c⟩
  · simpa [LampLine.onOrder] using a
  · rw [e]; exact b

theorem LampLine.freeSlot_bounded {l : LampLine} (h : l.bounded) (n : Nat) :
    (l.freeSlot n).bounded := by
  obtain ⟨a, b, c⟩ := h
  refine ⟨le_trans (List.length_filter_le _ _) a, ?_, c⟩
  exact List.Nodup.sublist (List.Sublist.map _ List.filter_sublist) b

theorem LampLine.mapBox_bounded {l : LampLine} (h : l.bounded) (f : Order → Order)
    (hf : ∀ o, (f o).shelf = o.shelf) : ({ l with orders := l.orders.map f } : LampLine).bounded := by
  obtain ⟨a, b, c⟩ := h
  have e : (l.orders.map f).map Order.shelf = l.orders.map Order.shelf := by
    rw [List.map_map]
    exact List.map_congr_left fun o _ => hf o
  exact ⟨by simpa using a, by rw [e]; exact b, c⟩

theorem LampLine.queueAck_bounded {l : LampLine} (h : l.bounded) (n k : Nat) :
    (l.queueAck n k).bounded := by
  obtain ⟨a, b, c⟩ := h
  unfold LampLine.queueAck
  split
  · refine ⟨a, b, ?_⟩
    have e : (l.ackQueue.map fun x => if x.1 = n then (n, k) else x).map Prod.fst =
        l.ackQueue.map Prod.fst := by
      rw [List.map_map]
      refine List.map_congr_left fun x _ => ?_
      simp only [Function.comp]
      split
      · next e => exact e.symm
      · rfl
    rw [e]; exact c
  · next hn =>
    refine ⟨a, b, ?_⟩
    simp only [List.any_eq_true, beq_iff_eq, Prod.exists, exists_and_right, exists_eq_right,
      not_exists] at hn
    simp only [List.map_append, List.map_cons, List.map_nil]
    refine List.nodup_append.2 ⟨c, by simp, ?_⟩
    rintro x hx y hy rfl
    simp only [List.mem_cons, List.not_mem_nil, or_false] at hy
    subst hy
    simp only [List.mem_map, Prod.exists, exists_and_right, exists_eq_right] at hx
    obtain ⟨y, hy⟩ := hx
    exact hn y hy

/-! ## The writers -/

section Lamps
variable (hl : P.lamps = true)
include hl

/-- A record changes and stays in the state it has. -/
theorem State.tweakLamp_moves (s : State) (b : Nat) (f : Lamp → Lamp)
    (hf : (f (s.lamp b)).station = (s.lamp b).station ∧ (f (s.lamp b)).state = (s.lamp b).state ∧
      ((s.lamp b).state = .inFlight → (f (s.lamp b)).sent = (s.lamp b).sent)) :
    Moves P s (s.onLamp b f) :=
  .ofLamps (fun _ h => s.onLamp_changes h b f) hl fun _ _ h => h.tweak f hf

/-- The line changes in what is no order. -/
theorem State.onLine_moves (s : State) {f : LampLine → LampLine}
    (hf : s.line.bounded → (f s.line).bounded) (hs : (f s.line).shelves = s.line.shelves)
    (ho : (f s.line).orders = s.line.orders) : Moves P s (s.onLine f) :=
  (s.onLine_changes hl hf hs).apart rfl rfl rfl rfl rfl ho

/-- Orders change in what the books do not hang on. -/
theorem State.onOrders_moves (s : State) {f : LampLine → LampLine} (g : Order → Order)
    (hf : s.line.bounded → (f s.line).bounded) (hs : (f s.line).shelves = s.line.shelves)
    (ho : (f s.line).orders = s.line.orders.map g)
    (hg : ∀ o, (g o).box = o.box ∧ (g o).shelf = o.shelf ∧ (g o).station = o.station ∧
      (g o).cadence = o.cadence) : Moves P s (s.onLine f) :=
  .ofLamps (fun _ h => s.onLine_changes h hf hs) hl fun _ _ h => h.orders f g ho hg

theorem State.freeSlot_changes (s : State) (n : Nat) : Changes P s (s.onLine fun l => l.freeSlot n) :=
  State.onLine_changes hl _ (fun h => LampLine.freeSlot_bounded h n) rfl

theorem State.joinQueue_changes (s : State) (b : Nat) : Changes P s (s.joinQueue b) :=
  (s.onLamp_changes hl b _).trans (State.onLampQueue_changes hl _ _)

/-! ## What the down-line transmitter takes -/

/-- An order joins the slots only for a shelf that has none, and while fewer than 8 are in use. -/
theorem State.sendOrder_changes (s : State) (b : Nat) (probe : Bool)
    (hroom : s.line.orders.length < Config.lampSlots)
    (hfree : ∀ st, (s.lamp b).station = some st → s.line.orderOf st.1 = none) :
    Changes P s (s.sendOrder b probe) := by
  unfold State.sendOrder
  split
  · exact .refl s
  · next shelf station e =>
    dsimp only
    refine Changes.trans (Changes.trans (Changes.trans (s.onLampQueue_changes hl _)
      (State.onLamp_changes hl _ _ _)) (State.onShelf_moves hl _ _ _).toChanges)
      (State.onLine_changes hl _ (fun h => ?_) rfl)
    obtain ⟨x, y, z⟩ := h
    refine ⟨?_, ?_, z⟩
    · simp only [List.length_append, List.length_cons, List.length_nil]
      exact hroom
    · have hn := hfree _ e
      simp only [LampLine.orderOf, List.find?_eq_none, beq_iff_eq] at hn
      simp only [List.map_append, List.map_cons, List.map_nil]
      refine List.nodup_append.2 ⟨y, by simp, ?_⟩
      rintro a ha c hc rfl
      simp only [List.mem_cons, List.not_mem_nil, or_false] at hc
      subst hc
      simp only [List.mem_map] at ha
      obtain ⟨o, ho, rfl⟩ := ha
      exact hn o ho rfl

theorem State.downNext_moves (s : State) : Moves P s s.downNext := by
  unfold State.downNext
  split
  · exact .refl s
  · split
    · next e =>
      refine State.onLine_moves hl _ (fun h => ?_) rfl rfl
      obtain ⟨x, y, z⟩ := h
      rw [e] at z
      exact ⟨x, y, (List.nodup_cons.1 z).2⟩
    · split
      · exact State.onLine_moves hl _ id rfl rfl
      · split
        · exact .refl s
        · next hroom =>
          have hroom : s.line.orders.length < Config.lampSlots := by omega
          split
          · next shelf he =>
            split
            · next b hb =>
              refine .ofLamps (fun _ h => s.sendOrder_changes h b true hroom fun st hst => ?_) hl
                fun _ _ h => h.send true (List.mem_of_find?_eq_some hb)
              have hc := List.find?_some he
              have hq := List.find?_some hb
              simp only [State.shelfOf, hst, Option.map_some, beq_iff_eq, Option.some.injEq] at hq
              simp only [State.canProbe, Bool.and_eq_true, Option.isNone_iff_eq_none] at hc
              rw [hq]; exact hc.1.2
            · exact .refl s
          · split
            · next b hb =>
              refine .ofLamps (fun _ h => s.sendOrder_changes h b false hroom fun st hst => ?_) hl
                fun _ _ h => h.send false (List.mem_of_find?_eq_some hb)
              have hq := List.find?_some hb
              simp only [State.shelfOf, hst, Option.map_some, Option.any_some, State.canOrder,
                Bool.and_eq_true, Option.isNone_iff_eq_none] at hq
              exact hq.2
            · exact .refl s

/-! ## The lamp records -/

/-- The settle timer of a WAITING record runs out. -/
theorem State.settleExpires_moves (s : State) (b : Nat) (hw : (s.lamp b).state = .waiting) :
    Moves P s (s.settleExpires b) := by
  unfold State.settleExpires
  refine Moves.ite (.ofLamps (fun _ h => s.onLamp_changes h _ _) hl fun _ _ h => ?_)
    (.ofLamps (fun _ h => s.joinQueue_changes h _) hl fun _ _ h => ?_)
  · have g := (h.but (b := b) (by simp [hw]) (by simp [hw])).change rfl
      (fun l => { l with state := .settled, expiry := none }) rfl
    exact g.rest (by rw [State.lamp_onLamp]; simp) (by rw [State.lamp_onLamp]; simp)
      (by rw [State.lamp_onLamp]; simp)
  · exact (h.but (b := b) (by simp [hw]) (by simp [hw])).join
      fun k => by rw [h.unmapped b k] at hw; cases hw

/-- A mapped record that is SETTLED or FAILED starts its settle timer. -/
theorem State.startSettle_moves (s : State) (b : Nat)
    (hw : (s.lamp b).state = .settled ∨ (s.lamp b).state = .failed)
    (hst : (s.lamp b).station ≠ none) : Moves P s (s.startSettle b) := by
  have h : Moves P s (s.onLamp b fun l =>
      { l with state := .waiting, failReason := none,
               expiry := some (s.now + s.dir.settings.settle * 250) }) := by
    refine .ofLamps (fun _ h => s.onLamp_changes h _ _) hl fun _ _ h => ?_
    have g := (h.but (b := b) (by rcases hw with e | e <;> simp [e])
      (by rcases hw with e | e <;> simp [e])).change rfl
      (fun l => { l with state := .waiting, failReason := none,
                         expiry := some (s.now + s.dir.settings.settle * 250) }) rfl
    exact g.rest (by rw [State.lamp_onLamp]; simp) (by rw [State.lamp_onLamp]; simp)
      (by rw [State.lamp_onLamp]; exact fun k => absurd k hst)
  unfold State.startSettle
  dsimp only
  split
  · exact h.trans (State.settleExpires_moves hl _ _ (by rw [State.lamp_onLamp]))
  · exact h

theorem State.recompute_moves (s : State) (b : Nat) : Moves P s (s.recompute b) := by
  unfold State.recompute
  dsimp only
  refine Moves.ite (.refl s) ?_
  have h := s.tweakLamp_moves hl b (fun l => { l with wanted := s.dir.wanted b (s.lamp b).source })
    ⟨rfl, rfl, fun _ => rfl⟩
  have lb : (s.onLamp b fun l => { l with wanted := s.dir.wanted b (s.lamp b).source }).lamp b =
      { s.lamp b with wanted := s.dir.wanted b (s.lamp b).source } := s.lamp_onLamp b _
  split
  · exact h
  · next hst =>
    split
    · next e =>
      exact (h.trans (State.startSettle_moves hl _ _ (by rw [lb]; exact .inl e)
        (by rw [lb]; exact hst))).trans (State.downNext_moves hl _)
    · next e =>
      exact (h.trans (State.startSettle_moves hl _ _ (by rw [lb]; exact .inr e)
        (by rw [lb]; exact hst))).trans (State.downNext_moves hl _)
    · exact h
    · next e =>
      refine Moves.ite ((h.trans ?_).trans (State.downNext_moves hl _)) h
      refine .ofLamps (fun _ h => (State.onLamp_changes h _ _ _).trans
        (State.onLampQueue_changes h _ _)) hl fun _ _ g => ?_
      have k := (g.unqueue (b := b) (by rw [lb]; simp [e])).change rfl
        (fun l => { l with state := .settled }) rfl
      have m := k.rest (by rw [State.lamp_onLamp]; simp) (by rw [State.lamp_onLamp]; simp)
        (by rw [State.lamp_onLamp]; simp)
      exact m.same rfl rfl rfl
    · exact h

theorem State.recomputeAll_moves (s : State) (bs : List Nat) : Moves P s (s.recomputeAll bs) :=
  Moves.foldl (fun s b => s.recompute_moves hl b) bs s

theorem State.cutLink_changes (s : State) (b : Nat) : Changes P s (s.cutLink b) := by
  refine State.onLine_changes hl _ (fun h => LampLine.mapBox_bounded h _ fun o => ?_) rfl
  split <;> rfl

theorem State.detachLamp_changes (s : State) (b : Nat) : Changes P s (s.detachLamp b) := by
  unfold State.detachLamp
  split
  · exact .refl s
  · exact .refl s
  · exact s.onLamp_changes hl _ _
  · exact s.onLampQueue_changes hl _
  · exact s.cutLink_changes hl _

theorem State.unmapLamp_moves (s : State) (b : Nat) : Moves P s (s.unmapLamp b) := by
  refine Moves.ite (.refl s) (.ofLamps (fun _ h => (s.detachLamp_changes h b).trans
    (State.onLamp_changes h _ _ _)) hl fun _ _ h => ?_)
  have g := (h.detach (b := b)).put rfl (fun l =>
      { l with station := none, state := .settled, confirmed := none, expiry := none, sent := none,
               retries := 0, failReason := none }) (fun _ k => by cases k)
  exact g.rest (by rw [State.lamp_onLamp]; simp) (by rw [State.lamp_onLamp]; simp)
    (by rw [State.lamp_onLamp]; simp)

omit hl in
/-- A record whose station has been removed is SETTLED, and no other record has changed. -/
theorem State.unmapLamp_lamp {s : State} (h : LampBooks s) (b : Nat) :
    ((s.unmapLamp b).lamp b).state = .settled ∧
      ∀ c, c ≠ b → ((s.unmapLamp b).lamp c).station = (s.lamp c).station := by
  unfold State.unmapLamp
  split
  · next e => exact ⟨h.unmapped b e, fun _ _ => rfl⟩
  · refine ⟨by rw [State.lamp_onLamp], fun c e => ?_⟩
    rw [State.lamp_onLamp_other _ _ e]; exact s.detachLamp_station b c

/-- A box takes a station that no box has. -/
theorem State.mapLamp_moves (s : State) {b shelf station : Nat}
    (hfree : ∀ c, (s.lamp c).station ≠ some (shelf, station)) :
    Moves P s (s.mapLamp b shelf station) := by
  unfold State.mapLamp
  dsimp only
  refine Moves.trans (.ofLamps (fun _ h => ((s.unmapLamp_moves h b).toChanges.trans
    (State.onLamp_changes h _ _ _)).trans (State.joinQueue_changes h _ _)) hl fun w l h => ?_)
    (State.downNext_moves hl _)
  have g := (s.unmapLamp_moves (P := ⟨false, false, false, false, false, false, false, false, true⟩) rfl
    b).lampsIn w l h
  obtain ⟨k1, k2⟩ := State.unmapLamp_lamp h b
  have m := (g.but (b := b) (by simp [k1]) (by simp [k1])).put rfl (fun l =>
    { l with station := some (shelf, station), confirmed := none, retries := 0, failReason := none,
             wanted := (s.unmapLamp b).dir.wanted b l.source }) fun st e c hc => by
      cases e; rw [k2 c hc]; exact hfree c
  exact m.join (by rw [State.lamp_onLamp]; simp)

omit hl in
theorem State.raiseLampFail_moves (s : State) (b shelf station : Nat) (w : FailReason)
    (c : Option Cadence) : Moves P s (s.raiseLampFail b shelf station w c) := s.raise_moves _ _

theorem State.failLamp_changes (s : State) (b shelf station : Nat) (w : FailReason)
    (c : Option Cadence) : Changes P s (s.failLamp b shelf station w c) :=
  (s.onLamp_changes hl _ _).trans (State.raiseLampFail_moves _ _ _ _ _ _).toChanges

omit hl in
theorem State.raiseShelfState_moves (s : State) (n c : Nat) : Moves P s (s.raiseShelfState n c) :=
  s.raise_moves _ _

theorem State.shelfUp_moves (s : State) (n c : Nat) : Moves P s (s.shelfUp n c) :=
  ((s.onShelf_moves hl _ _).trans (State.onLine_moves hl _ (fun h => h) rfl rfl)).trans
    (State.raiseShelfState_moves _ _ _)

theorem State.requeueFailed_moves (s : State) (n : Nat) : Moves P s (s.requeueFailed n) := by
  refine .ofLamps (fun _ h => Changes.foldl (fun s b => s.joinQueue_changes h b) _ s) hl
    fun w _ h => LampBooks.joinAll _ ((s.mappedTo_nodup w n).filter _) h fun b hb => ?_
  obtain ⟨m, k⟩ := List.mem_filter.1 hb
  have e : (s.lamp b).state = .failed := by simpa using k
  obtain ⟨st, g⟩ := (s.mem_mappedTo w n b).1 m
  exact ⟨by simp [e], by simp [e], by simp [g]⟩

theorem State.refreshLamp_changes (s : State) (b : Nat) : Changes P s (s.refreshLamp b) := by
  unfold State.refreshLamp
  have h := s.onLamp_changes hl b (fun l => { l with confirmed := none })
  split
  · exact h.trans (State.joinQueue_changes hl _ _)
  · exact h.trans (State.joinQueue_changes hl _ _)
  · exact h.trans (State.joinQueue_changes hl _ _)
  · exact h
  · exact h

/-- A mapped record is refreshed. -/
theorem State.refreshLamp_moves (s : State) (b : Nat) (hst : (s.lamp b).station ≠ none) :
    Moves P s (s.refreshLamp b) := by
  refine .ofLamps (fun _ h => s.refreshLamp_changes h b) hl fun _ _ h => ?_
  unfold State.refreshLamp
  split <;> next e =>
    first
    | exact h.tweak _ ⟨rfl, rfl, fun _ => rfl⟩
    | exact ((h.but (by simp [e]) (by simp [e])).change rfl _ rfl).join
        (by rw [State.lamp_onLamp]; exact hst)

omit hl in
/-- A refresh leaves every station as it was. -/
theorem State.refreshLamp_station (s : State) (b c : Nat) :
    ((s.refreshLamp b).lamp c).station = (s.lamp c).station := by
  have put (t : State) (f : Lamp → Lamp) (hf : ∀ l, (f l).station = l.station) :
      ((t.onLamp b f).lamp c).station = (t.lamp c).station := by
    by_cases e : c = b
    · subst e; rw [State.lamp_onLamp]; exact hf _
    · rw [State.lamp_onLamp_other _ _ e]
  have one := put s (fun l => { l with confirmed := none }) fun _ => rfl
  have two : (((s.onLamp b fun l => { l with confirmed := none }).joinQueue b).lamp c).station =
      (s.lamp c).station :=
    (put (s.onLamp b fun l => { l with confirmed := none }) (fun l =>
      { l with state := .queued, retries := 0, failReason := none, expiry := none, sent := none })
      fun _ => rfl).trans one
  unfold State.refreshLamp
  split
  · exact two
  · exact two
  · exact two
  · exact one
  · exact one

/-- Mapped records are refreshed, one after another. -/
theorem State.refreshAll_moves (s : State) (bs : List Nat) (hb : ∀ b ∈ bs, (s.lamp b).station ≠ none) :
    Moves P s (bs.foldl State.refreshLamp s) := by
  induction bs generalizing s with
  | nil => exact .refl s
  | cons b rest ih =>
    refine (s.refreshLamp_moves hl b (hb b (by simp))).trans (ih _ fun c hc => ?_)
    rw [s.refreshLamp_station]; exact hb c (List.mem_cons_of_mem _ hc)

/-! ## The start -/

theorem State.refreshAtStart_changes (s : State) : Changes P s s.refreshAtStart := by
  have h : Changes P s { s with lampQueue := [] } := s.onLampQueue_changes hl fun _ => []
  exact (h.trans (Changes.foldl (fun s b => s.onLamp_changes hl b _) _ _)).trans
    (Changes.foldl (fun s b => s.joinQueue_changes hl b) _ _)

/-! ## The events of the line -/

theorem State.downFrameDone_moves (s : State) : Moves P s s.downFrameDone := by
  unfold State.downFrameDone
  split
  · exact .refl s
  · next f _ =>
    refine Moves.trans ?_ (State.downNext_moves hl _)
    cases f with
    | ack => exact State.onLine_moves hl _ (fun h => h) rfl rfl
    | order shelf _ number =>
      refine State.onOrders_moves hl _ (fun o => if o.shelf = shelf then
        (if o.number = number then { o with timerRunning := true } else o) else o)
        (fun h => LampLine.onOrder_bounded h _ fun o => by split <;> rfl) rfl rfl fun o => ?_
      split
      · split <;> exact ⟨rfl, rfl, rfl, rfl⟩
      · exact ⟨rfl, rfl, rfl, rfl⟩

theorem State.queueAck_moves (s : State) (n k : Nat) : Moves P s (s.onLine fun l => l.queueAck n k) :=
  State.onLine_moves hl _ (fun h => LampLine.queueAck_bounded h n k)
    (by unfold LampLine.queueAck; split <;> rfl) (by unfold LampLine.queueAck; split <;> rfl)

omit hl in
/-- The one order of a shelf. -/
theorem LampLine.order_eq {l : LampLine} (h : l.bounded) {n : Nat} {o x : Order}
    (ho : l.orderOf n = some o) (hx : x ∈ l.orders) (hs : x.shelf = n) : x = o :=
  List.inj_on_of_nodup_map h.2.1 hx (List.mem_of_find?_eq_some ho)
    (hs.trans (of_decide_eq_true (p := o.shelf = n) (by simpa using List.find?_some ho)).symm)

omit hl in
/-- The slot of an order that serves no record is freed. -/
theorem LampBooks.freeOrder {s : State} (h : LampBooks s) (hb : s.line.bounded) {n : Nat} {o : Order}
    (ho : s.line.orderOf n = some o) (hn : o.box = none) :
    LampBooks (s.onLine fun l => l.freeSlot n) :=
  h.freeUnlinked n fun x hx hs => by rw [LampLine.order_eq hb ho hx hs]; exact hn

theorem State.probeFails_moves (s : State) {n : Nat} {o : Order} (ho : s.line.orderOf n = some o) :
    Moves P s (s.probeFails n o) := by
  unfold State.probeFails
  dsimp only
  have c (Q : Parts) (h : Q.lamps = true) := (s.freeSlot_changes h n).trans
    (State.onShelf_moves h _ n fun h => { h with failures := sat16 h.failures }).toChanges
  cases hb : o.box with
  | none =>
    exact .ofLamps c hl fun _ l h => (h.freeOrder l ho hb).same rfl rfl rfl
  | some b =>
    refine .ofLamps (fun Q h => (c Q h).trans (State.joinQueue_changes h _ _)) hl fun _ l h => ?_
    have g := h.free l.2.1 ho hb
    have st := (h.served o (List.mem_of_find?_eq_some ho) b hb).2.1
    have m : LampBooksBut (· = b) ((s.onLine fun l => l.freeSlot n).onShelf n fun h =>
      { h with failures := sat16 h.failures }) := g.same rfl rfl rfl
    exact m.join (by change (s.lamp b).station ≠ none; simp [st])

theorem State.resendOrder_moves (s : State) (n : Nat) (o : Order) : Moves P s (s.resendOrder n o) := by
  unfold State.resendOrder
  have a : Moves P s (s.onLine fun l =>
      { l.onOrder n (fun o => { o with timerRunning := false, resends := o.resends + 1 }) with
        resends := l.resends ++ [n] }) :=
    State.onOrders_moves hl _ (fun o => if o.shelf = n then
        { o with timerRunning := false, resends := o.resends + 1 } else o)
      (fun h => LampLine.onOrder_bounded h n fun _ => rfl) rfl rfl
      fun o => by split <;> exact ⟨rfl, rfl, rfl, rfl⟩
  have h := a.trans (State.onShelf_moves hl _ n fun h => { h with retries := sat16 h.retries })
  dsimp only
  split
  · exact h
  · exact h.trans (State.tweakLamp_moves hl _ _ _ ⟨rfl, rfl, fun _ => rfl⟩)

theorem State.shelfDown_moves (s : State) (n : Nat) : Moves P s (s.shelfDown n) :=
  Moves.ite ((s.onShelf_moves hl _ _).trans (State.raiseShelfState_moves _ _ _)) (.refl s)

theorem State.orderFails_moves (s : State) {n : Nat} {o : Order} (ho : s.line.orderOf n = some o) :
    Moves P s (s.orderFails n o) := by
  unfold State.orderFails
  dsimp only
  refine Moves.trans ?_ (State.shelfDown_moves hl _ _)
  have c (Q : Parts) (h : Q.lamps = true) := (s.freeSlot_changes h n).trans
    (State.onShelf_moves h _ n fun h =>
      { h with failures := sat16 h.failures, consecutive := min 3 (h.consecutive + 1) }).toChanges
  cases hb : o.box with
  | none => exact .ofLamps c hl fun _ l h => (h.freeOrder l ho hb).same rfl rfl rfl
  | some b =>
    refine .ofLamps (fun Q h => (c Q h).trans (State.failLamp_changes h _ _ _ _ _ _)) hl
      fun _ l h => ?_
    have st := (h.served o (List.mem_of_find?_eq_some ho) b hb).2.1
    have m : LampBooksBut (· = b) ((s.onLine fun l => l.freeSlot n).onShelf n fun h =>
      { h with failures := sat16 h.failures, consecutive := min 3 (h.consecutive + 1) }) :=
      (h.free l.2.1 ho hb).same rfl rfl rfl
    exact m.fail (by change (s.lamp b).station ≠ none; simp [st]) _ _ _ _

theorem State.ackExpires_moves (s : State) (n : Nat) : Moves P s (s.ackExpires n) := by
  unfold State.ackExpires
  split
  · exact .refl s
  · next o ho =>
    refine Moves.ite (.refl s) (Moves.ite ?_ (Moves.ite ?_ ?_))
    · exact (s.probeFails_moves hl ho).trans (State.downNext_moves hl _)
    · exact (s.resendOrder_moves hl _ _).trans (State.downNext_moves hl _)
    · exact (s.orderFails_moves hl ho).trans (State.downNext_moves hl _)

theorem State.probeExpires_moves (s : State) (n : Nat) : Moves P s (s.probeExpires n) := by
  unfold State.probeExpires
  refine Moves.ite (.refl s) ?_
  have h := s.onShelf_moves hl n fun h => { h with probeAt := some (s.now + 30000) }
  dsimp only
  refine Moves.ite ?_ h
  exact (h.trans (State.onLine_moves hl _ (fun h => h) rfl rfl)).trans (State.downNext_moves hl _)

theorem State.pauseEnds_moves (s : State) (n : Nat) : Moves P s (s.pauseEnds n) :=
  Moves.ite (.refl s) ((s.onShelf_moves hl _ _).trans (State.downNext_moves hl _))

theorem State.lampDone_changes (s : State) (b : Nat) : Changes P s (s.lampDone b) := by
  unfold State.lampDone
  have h := s.onLamp_changes hl b fun l =>
    { l with confirmed := l.sent, sent := none, state := .settled }
  dsimp only
  split
  · exact h
  · exact h.trans (State.joinQueue_changes hl _ _)

omit hl in
theorem LampBooksBut.done {s : State} {b : Nat} (h : LampBooksBut (· = b) s)
    (hst : (s.lamp b).station ≠ none) : LampBooks (s.lampDone b) := by
  have g := h.change rfl (fun l => { l with confirmed := l.sent, sent := none, state := .settled }) rfl
  unfold State.lampDone
  dsimp only
  split
  · exact g.rest (by rw [State.lamp_onLamp]; simp) (by rw [State.lamp_onLamp]; simp)
      (by rw [State.lamp_onLamp]; simp)
  · exact g.join (by rw [State.lamp_onLamp]; exact hst)

theorem State.answerLamp_changes (s : State) (o : Order) (b : Nat) (r : AckResult) :
    Changes P s (s.answerLamp o b r) := by
  cases r with
  | done => exact s.lampDone_changes hl b
  | noStation => exact s.failLamp_changes hl _ _ _ _ _
  | lampFault => exact s.failLamp_changes hl _ _ _ _ _

omit hl in
theorem LampBooksBut.answer {s : State} {b : Nat} (h : LampBooksBut (· = b) s)
    (hst : (s.lamp b).station ≠ none) (o : Order) (r : AckResult) : LampBooks (s.answerLamp o b r) := by
  cases r with
  | done => exact h.done hst
  | noStation => exact h.fail hst _ _ _ _
  | lampFault => exact h.fail hst _ _ _ _

/-- The slot of an answered order is freed, and where it was a probe its shelf comes UP. -/
theorem State.ackMatched_moves (s : State) {n : Nat} {o : Order} (r : AckResult)
    (ho : s.line.orderOf n = some o) : Moves P s (s.ackMatched n o r) := by
  unfold State.ackMatched
  dsimp only
  set u := (s.onLine fun l => l.freeSlot n).onShelf n fun h => { h with consecutive := 0 } with hu
  have c (Q : Parts) (h : Q.lamps = true) : Changes Q s u :=
    (s.freeSlot_changes h n).trans (State.onShelf_moves h _ n fun h => { h with consecutive := 0 }).toChanges
  have up : ∃ w, w = (if o.probe then u.shelfUp n 1 else u) ∧ w.lamps = u.lamps ∧
      w.lampQueue = u.lampQueue ∧ w.line.orders = u.line.orders ∧
      ∀ Q : Parts, Q.lamps = true → Changes Q s w := by
    refine ⟨_, rfl, ?_⟩
    split
    · exact ⟨rfl, rfl, rfl, fun Q h => (c Q h).trans (State.shelfUp_moves h _ _ _).toChanges⟩
    · exact ⟨rfl, rfl, rfl, c⟩
  obtain ⟨w, hw, w1, w2, w3, wc⟩ := up
  rw [← hw]
  have last (t : State) (ht : Moves P s t) :
      Moves P s (if o.probe then t.requeueFailed n else t).downNext :=
    Moves.trans (Moves.ite (ht.trans (State.requeueFailed_moves hl _ _)) ht)
      (State.downNext_moves hl _)
  refine last _ ?_
  cases hb : o.box with
  | none => exact .ofLamps wc hl fun _ l h => (h.freeOrder l ho hb).same w1 w2 w3
  | some b =>
    refine .ofLamps (fun Q h => (wc Q h).trans (State.answerLamp_changes h _ _ _ _)) hl fun _ l h => ?_
    have st := (h.served o (List.mem_of_find?_eq_some ho) b hb).2.1
    have m : LampBooksBut (· = b) w := (h.free l.2.1 ho hb).same w1 w2 w3
    have e : w.lamp b = s.lamp b := by unfold State.lamp; rw [w1]; rfl
    exact m.answer (by rw [e]; simp [st]) _ _

theorem State.ackArrives_moves (s : State) (n k : Nat) (r : AckResult) :
    Moves P s (s.ackArrives n k r) := by
  unfold State.ackArrives
  split
  · exact s.onShelf_moves hl _ _
  · next o ho => exact Moves.ite (s.ackMatched_moves hl r ho) (s.onShelf_moves hl _ _)

theorem State.restartLamp_changes (s : State) (b : Nat) : Changes P s (s.restartLamp b) := by
  have h := s.onLamp_changes hl b fun l => { l with confirmed := none }
  unfold State.restartLamp
  dsimp only
  split
  · exact h
  · exact h.trans (State.joinQueue_changes hl _ _)

omit hl in
/-- A record of a restarted shelf, whose order is gone, joins the queue. -/
theorem LampBooksBut.restart {s : State} {p : Nat → Prop} {n b : Nat} (h : LampBooksBut p s)
    (hn : ∀ o ∈ s.line.orders, o.shelf ≠ n) (hst : ∃ m, (s.lamp b).station = some (n, m)) :
    LampBooksBut (fun c => p c ∧ c ≠ b) (s.restartLamp b) ∨
      p b ∧ (s.lamp b).state = .queued := by
  obtain ⟨m, hst⟩ := hst
  have g := h.tweak (b := b) (fun l => { l with confirmed := none }) ⟨rfl, rfl, fun _ => rfl⟩
  have lb : (s.onLamp b fun l => { l with confirmed := none }).lamp b = { s.lamp b with confirmed := none } :=
    s.lamp_onLamp b _
  unfold State.restartLamp
  dsimp only
  rw [lb]
  by_cases q : (s.lamp b).state = .queued
  · by_cases pb : p b
    · exact .inr ⟨pb, q⟩
    · left
      rw [if_pos q]
      exact g.congr fun c => ⟨fun k => k.1, fun k => ⟨k, fun e => pb (e ▸ k)⟩⟩
  · left
    rw [if_neg q]
    by_cases pb : p b
    · exact g.enqueue pb (by rw [lb]; simp [hst])
    · have fl : (s.lamp b).state ≠ .inFlight := by
        intro f
        obtain ⟨o, ho, hb⟩ := h.flying b pb f
        have k := (h.served o ho b hb).2.2.1
        rw [hst] at k
        cases k; exact hn o ho rfl
      have k := (g.more pb (by rw [lb]; exact q) (by rw [lb]; exact fl)).enqueue (.inr rfl)
        (by rw [lb]; simp [hst])
      refine k.congr fun c => ?_
      constructor
      · rintro ⟨a, b⟩; exact ⟨.inl a, b⟩
      · rintro ⟨a | a, b⟩
        · exact ⟨a, b⟩
        · exact absurd a b

omit hl in
/-- A restart changes no station and no order, and no record but its own. -/
theorem State.restartLamp_frame (s : State) (b : Nat) :
    (s.restartLamp b).line = s.line ∧ (∀ c, ((s.restartLamp b).lamp c).station = (s.lamp c).station) ∧
      ∀ c, c ≠ b → (s.restartLamp b).lamp c = s.lamp c := by
  have o1 (c : Nat) (e : c ≠ b) := s.lamp_onLamp_other (fun l => { l with confirmed := none }) e
  have lb := s.lamp_onLamp b (fun l => { l with confirmed := none })
  unfold State.restartLamp
  dsimp only
  split
  · refine ⟨rfl, fun c => ?_, o1⟩
    by_cases e : c = b
    · subst e; rw [lb]
    · rw [o1 c e]
  · have o2 (c : Nat) (e : c ≠ b) :
        ((s.onLamp b fun l => { l with confirmed := none }).joinQueue b).lamp c = s.lamp c :=
      (State.joinQueue_lamp_other _ e).trans (o1 c e)
    refine ⟨rfl, fun c => ?_, o2⟩
    by_cases e : c = b
    · subst e
      refine (congrArg Lamp.station (State.lamp_onLamp _ c fun l => { l with
        state := .queued, retries := 0, failReason := none, expiry := none, sent := none })).trans ?_
      rw [lb]
    · rw [o2 c e]

omit hl in
/-- Every record of a restarted shelf joins the queue; the record whose order was freed is one. -/
theorem LampBooksBut.restartAll {n : Nat} (bs : List Nat) {s : State} {p : Nat → Prop}
    (h : LampBooksBut p s) (hn : ∀ o ∈ s.line.orders, o.shelf ≠ n)
    (hst : ∀ b ∈ bs, ∃ m, (s.lamp b).station = some (n, m))
    (hp : ∀ c, p c → c ∈ bs ∧ (s.lamp c).state ≠ .queued) :
    LampBooks (bs.foldl State.restartLamp s) := by
  induction bs generalizing s p with
  | nil => exact h.whole fun c k => by have := (hp c k).1; simp at this
  | cons b rest ih =>
    obtain ⟨f1, f2, f3⟩ := s.restartLamp_frame b
    have g := (h.restart hn (hst b (by simp))).resolve_right fun k => (hp b k.1).2 k.2
    refine ih g (by rw [f1]; exact hn) (fun c hc => ?_) fun c hc => ?_
    · rw [f2]; exact hst c (List.mem_cons_of_mem _ hc)
    · rw [f3 c hc.2]
      have k := hp c hc.1
      exact ⟨(List.mem_cons.1 k.1).resolve_left hc.2, k.2⟩

theorem State.shelfRestarts_moves (s : State) (n k : Nat) : Moves P s (s.shelfRestarts n k) := by
  unfold State.shelfRestarts
  dsimp only
  have up : ∃ u, u = (if (s.shelf n).up = true then s.onShelf n fun h =>
        { h with lastAccepted := some k, pausedUntil := none, consecutive := 0 }
      else (s.onShelf n fun h =>
        { h with lastAccepted := some k, pausedUntil := none, consecutive := 0 }).shelfUp n 2) ∧
      u.lamps = s.lamps ∧ u.lampQueue = s.lampQueue ∧ u.line.orders = s.line.orders ∧
      ∀ Q : Parts, Q.lamps = true → Moves Q s u := by
    refine ⟨_, rfl, ?_⟩
    have h (Q : Parts) (hq : Q.lamps = true) := s.onShelf_moves hq n fun h =>
      { h with lastAccepted := some k, pausedUntil := none, consecutive := 0 }
    split
    · exact ⟨rfl, rfl, rfl, h⟩
    · exact ⟨rfl, rfl, rfl, fun Q hq => (h Q hq).trans (State.shelfUp_moves hq _ n 2)⟩
  obtain ⟨u, hu, u1, u2, u3, um⟩ := up
  rw [← hu]
  refine (um P hl).trans (.ofLamps (fun Q h => (State.freeSlot_changes h _ n).trans
    (Changes.foldl (fun s b => s.restartLamp_changes h b) _ _)) hl fun w l h => ?_)
  have hm (b : Nat) (hb : b ∈ u.mappedTo n) := (State.mem_mappedTo w n b).1 hb
  have none_ (o : Order) (ho : o ∈ (u.onLine fun l => l.freeSlot n).line.orders) : o.shelf ≠ n := by
    simpa using (List.mem_filter.1 ho).2
  change LampBooks ((u.mappedTo n).foldl State.restartLamp (u.onLine fun l => l.freeSlot n))
  cases ho : u.line.orderOf n with
  | none =>
    have g := (h.freeUnlinked n fun o ho' hs => by
      have := List.find?_eq_none.1 ho o ho'
      simp [hs] at this).allIn
    exact g.restartAll (n := n) _ none_ hm fun c k => k.elim
  | some o =>
    cases hb : o.box with
    | none => exact (h.freeOrder l ho hb).allIn.restartAll (n := n) _ none_ hm fun c k => k.elim
    | some b =>
      have sb := h.served o (List.mem_of_find?_eq_some ho) b hb
      have on : o.shelf = n := by simpa using List.find?_some ho
      refine (h.free l.2.1 ho hb).restartAll (n := n) _ none_ hm ?_
      rintro c rfl
      exact ⟨(State.mem_mappedTo w n c).2 ⟨_, by rw [sb.2.1, on]⟩,
        by change (u.lamp c).state ≠ .queued; simp [sb.1]⟩

theorem State.restartArrives_moves (s : State) (n k : Nat) : Moves P s (s.restartArrives n k) :=
  ((s.queueAck_moves hl n k).trans (State.shelfRestarts_moves hl _ _ _)).trans
    (State.downNext_moves hl _)

theorem State.pauseArrives_moves (s : State) (n k t : Nat) : Moves P s (s.pauseArrives n k t) :=
  Moves.ite ((s.queueAck_moves hl n k).trans (State.downNext_moves hl _))
    (((s.queueAck_moves hl n k).trans (State.onShelf_moves hl _ _ _)).trans
      (State.downNext_moves hl _))

theorem State.stationFails_moves (s : State) (n k : Nat) : Moves P s (s.stationFails n k) := by
  unfold State.stationFails
  split
  · exact .refl s
  · next b hb =>
    refine .ofLamps (fun Q h => (s.detachLamp_changes h _).trans
      (State.failLamp_changes h _ _ _ _ _ _)) hl fun w _ h => h.detach.fail ?_ _ _ _ _
    rw [s.detachLamp_station, State.boxAt_some w hb]
    simp

theorem State.faultArrives_moves (s : State) (n k m : Nat) : Moves P s (s.faultArrives n k m) :=
  Moves.ite ((s.queueAck_moves hl n k).trans (State.downNext_moves hl _))
    ((((s.queueAck_moves hl n k).trans (State.onShelf_moves hl _ _ _)).trans
      (State.stationFails_moves hl _ _ _)).trans (State.downNext_moves hl _))

theorem State.upFrame_moves (s : State) (bs : List Byte) : Moves P s (s.upFrame bs) := by
  unfold State.upFrame
  dsimp only
  split
  · exact s.ackArrives_moves hl _ _ _
  · exact s.ackArrives_moves hl _ _ _
  · exact s.ackArrives_moves hl _ _ _
  · exact s.restartArrives_moves hl _ _
  · exact s.pauseArrives_moves hl _ _ _
  · exact s.faultArrives_moves hl _ _ _
  · exact .refl s

theorem State.receiver_moves (s : State) (f : Framer) :
    Moves P s (s.onLine fun l => { l with receiver := f }) :=
  State.onLine_moves hl _ (fun h => h) rfl rfl

theorem State.upByte_moves (s : State) (b : Byte) : Moves P s (s.upByte b) := by
  unfold State.upByte
  split
  · exact Moves.ite (s.receiver_moves hl _) (.refl s)
  · refine Moves.ite (s.receiver_moves hl _) (Moves.ite ?_ (s.receiver_moves hl _))
    exact (s.receiver_moves hl _).trans (State.upFrame_moves hl _ _)

end Lamps

end Sys2Proof.Machine
end

