-- ==== Sys2Proof/Laws/MovesStore.lean ====
section
/-! SUPPORT. What each operation on blocks, chains and recordings can do, and that it keeps the books
of the block store. -/

namespace Sys2Proof.Machine

variable {P : Parts} {x : Option Nat} {loose out : List Nat}

/-! ## The pool level and the pool -/

theorem State.evalLevel_moves (hs : P.store = true) (s : State) : Moves P s s.evalLevel := by
  have h : Moves P s (s.onDir fun d => { d with poolLevel := s.dir.poolLevel.step s.dir.pool.size }) :=
    Changes.apart { Changes.refl (P := P) s with store := .inl hs, dirIn := id } rfl rfl rfl rfl rfl rfl
  exact Moves.ite (h.trans (State.raise_moves _ _ _)) (.refl s)

/-- The pool level alone changes in the Directory. -/
theorem State.evalLevel_dir (s : State) : s.evalLevel.dir.blocks = s.dir.blocks ∧
    s.evalLevel.dir.pool = s.dir.pool ∧ s.evalLevel.dir.recordings = s.dir.recordings := by
  unfold State.evalLevel
  dsimp only
  split <;> exact ⟨rfl, rfl, rfl⟩

theorem State.takeBlock_changes (hs : P.store = true) {s t : State} {b : Nat}
    (h : s.takeBlock = some (b, t)) : Changes P s t := by
  unfold State.takeBlock at h
  split at h
  · cases h
  · cases h
    exact (s.setPool_changes hs _).trans (State.evalLevel_moves hs _).toChanges

theorem State.takeBlock_books {s t : State} {b : Nat} (h : s.takeBlock = some (b, t))
    (g : StoreBooks s.dir) : StoreBooksBut t.dir none [] [b] ∧
      t.dir.recordings = s.dir.recordings ∧ ∀ c, t.dir.block c = s.dir.block c := by
  unfold State.takeBlock at h
  split at h
  · cases h
  · next c pool e =>
    cases h
    obtain ⟨e1, e2, e3⟩ := (s.onDir fun d => { d with pool := pool }).evalLevel_dir
    exact ⟨g.take e e1 e2 e3, e3, fun c => by unfold Directory.block; rw [e1]; rfl⟩

theorem State.appendFree_changes (hs : P.store = true) (s : State) (b : Nat) :
    Changes P s (s.appendFree b) :=
  Changes.trans (b := s.onDir fun d => { d.clearBlock b with pool := d.pool.append b })
    { Changes.refl (P := P) s with
      store := .inl hs
      dirIn := fun ⟨a, b, c, d, e, f, g⟩ => ⟨Table.drop_sorted _ _ a, b, c, d, e, f, g⟩ }
    (State.evalLevel_moves hs _).toChanges

theorem State.appendFree_books (s : State) {b : Nat} (h : StoreBooksBut s.dir x loose out)
    (hl : b ∈ loose ∨ s.dir.block b = some .draining) :
    StoreBooksBut (s.appendFree b).dir x (loose.erase b) out := by
  unfold State.appendFree
  obtain ⟨e1, e2, e3⟩ :=
    (s.onDir fun d => { d.clearBlock b with pool := d.pool.append b }).evalLevel_dir
  refine h.append hl e2 e3 ?_ fun c hc => ?_
  · unfold Directory.block; rw [e1]; exact Table.find_drop_same _ _
  · unfold Directory.block; rw [e1]; exact Table.find_drop_other _ hc

/-- A DRAINING block is freed. -/
theorem State.appendFree_moves (hs : P.store = true) (hc : P.cache = true) (s : State) {b : Nat}
    (hb : s.dir.block b = some .draining) : Moves P s (s.appendFree b) :=
  .ofStore (fun _ h _ => s.appendFree_changes h b) hs hc fun _ h =>
    (s.appendFree_books h.but (.inr hb)).whole

/-- A DRAINING block is retired. -/
theorem State.retireDraining_moves (hs : P.store = true) (hc : P.cache = true) (s : State) {b : Nat}
    (hb : s.dir.block b = some .draining) : Moves P s (s.setBlock b .retired) :=
  .ofStore (fun _ h _ => s.setBlock_changes h b _) hs hc fun _ h =>
    (h.but.mark (e := (s.setBlock b .retired).dir) (st := .retired) (.inr hb) (by simp) rfl rfl
      (Table.find_put_same _ _ _) fun _ hc => Table.find_put_other _ _ hc).whole

/-! ## Records -/

/-- A record is replaced by one of the same chain. -/
theorem State.setRecording_moves (hs : P.store = true) (hc : P.cache = true) (s : State) {r : Nat}
    {v w : Recording} (hv : s.recording r = some v)
    (hw : w.head = v.head ∧ w.tail = v.tail ∧ w.blocks = v.blocks) : Moves P s (s.setRecording r w) :=
  .ofStore (fun _ h _ => s.setRecording_changes h r w) hs hc fun _ h =>
    (h.but.record (e := (s.setRecording r w).dir) hv hw.1 hw.2.1 hw.2.2 rfl rfl rfl).whole

theorem State.onRecording_moves (hs : P.store = true) (hc : P.cache = true) (s : State) (r : Nat)
    {f : Recording → Recording}
    (hf : ∀ v, (f v).head = v.head ∧ (f v).tail = v.tail ∧ (f v).blocks = v.blocks) :
    Moves P s (s.onRecording r f) := by
  unfold State.onRecording
  split
  · exact .refl s
  · next v e => exact s.setRecording_moves hs hc e (hf v)

theorem State.addRef_moves (hs : P.store = true) (hc : P.cache = true) (s : State) (r : Nat) :
    Moves P s (s.addRef r) := s.onRecording_moves hs hc r fun _ => ⟨rfl, rfl, rfl⟩

/-! ## Freeing -/

theorem State.setNext_changes (hs : P.store = true) (s : State) (b : Nat) (n : Option Nat) :
    Changes P s (s.setNext b n) := by
  unfold State.setNext
  split
  · exact s.setBlock_changes hs _ _
  · exact .refl s

/-- The next link of a CHAINED block set: no other block changes. -/
theorem State.setNext_dir (s : State) {a r : Nat} {m : Option Nat} (n : Option Nat)
    (h : s.dir.block a = some (.chained r m)) :
    (s.setNext a n).dir.block a = some (.chained r n) ∧
      (∀ c, c ≠ a → (s.setNext a n).dir.block c = s.dir.block c) ∧
      (s.setNext a n).dir.pool = s.dir.pool ∧
      (s.setNext a n).dir.recordings = s.dir.recordings := by
  unfold State.setNext
  simp only [h]
  exact ⟨Table.find_put_same _ _ _, fun c hc => Table.find_put_other _ _ hc, rfl, rfl⟩

section Store
variable (hs : P.store = true) (hc : P.cache = true)
include hs hc

theorem State.freeBlock_changes (s : State) (b : Nat) : Changes P s (s.freeBlock b) := by
  have h : s.cache.canonical → (s.cache.discard b).1.canonical := fun h => Cache.discard_canonical h b
  unfold State.freeBlock
  split <;> next e =>
    rw [e] at h
    first
    | exact (s.withCache_moves hc h).toChanges.trans (State.setBlock_changes hs _ _ _)
    | exact (s.withCache_moves hc h).toChanges.trans (State.appendFree_changes hs _ _)

omit hs hc in
theorem State.freeBlock_books (s : State) {b : Nat} (h : StoreBooksBut s.dir x loose out)
    (hl : b ∈ loose) : StoreBooksBut (s.freeBlock b).dir x (loose.erase b) out := by
  unfold State.freeBlock
  split
  · exact h.mark (.inl hl) (st := .draining) (by simp) rfl rfl (Table.find_put_same _ _ _)
      fun c hc => Table.find_put_other _ _ hc
  · exact State.appendFree_books _ h (.inl hl)

theorem State.freeBlocks_changes (s : State) (bs : List Nat) : Changes P s (s.freeBlocks bs) := by
  unfold State.freeBlocks
  induction bs generalizing s with
  | nil => exact .refl s
  | cons b rest ih => exact (s.freeBlock_changes hs hc b).trans (ih _)

omit hs hc in
/-- All loose blocks are freed. -/
theorem State.freeBlocks_books (s : State) (bs : List Nat) (h : StoreBooksBut s.dir x bs out) :
    StoreBooksBut (s.freeBlocks bs).dir x [] out := by
  unfold State.freeBlocks
  induction bs generalizing s with
  | nil => exact h
  | cons b rest ih =>
    refine ih _ ?_
    have g := s.freeBlock_books h (b := b) (by simp)
    rwa [List.erase_cons_head] at g

theorem State.freeRecording_moves (s : State) (r : Nat) : Moves P s (s.freeRecording r) := by
  unfold State.freeRecording
  split
  · exact .refl s
  · next v e =>
    refine .ofStore (fun _ h k => (s.freeBlocks_changes h k _).trans (State.emptyRecording_changes h _ _))
      hs hc fun _ h => ?_
    exact (StoreBooksBut.empty (r := r) (e := ((s.freeBlocks _).emptyRecording r).dir)
      (s.freeBlocks_books _ (h.release e)) rfl rfl rfl).whole

theorem State.releaseRef_moves (s : State) (r : Nat) : Moves P s (s.releaseRef r) := by
  unfold State.releaseRef
  split
  · exact .refl s
  · next v e =>
    have h := s.setRecording_moves (P := P) hs hc e (w := { v with references := v.references - 1 })
      ⟨rfl, rfl, rfl⟩
    exact Moves.ite (h.trans (State.freeRecording_moves hs hc _ _)) h

theorem State.releaseRefs_moves (s : State) (rs : List Nat) : Moves P s (s.releaseRefs rs) :=
  Moves.foldl (fun s r => s.releaseRef_moves hs hc r) rs s

theorem State.releaseOpt_moves (s : State) (r : Option Nat) : Moves P s (s.releaseOpt r) := by
  cases r with
  | none => exact .refl s
  | some r => exact s.releaseRef_moves hs hc r

/-! ## Opening, growing, truncating -/

omit hs in
theorem State.establish_moves (s : State) (b : Nat) (k : Coding) (p : Nat) :
    Moves P s (s.establish b k p) :=
  s.withCache_moves hc fun h => Cache.establish_canonical h b k p

omit hs hc in
/-- A search whose every place fails finds nothing. -/
theorem leastFrom_none {p : Nat → Bool} {fuel k : Nat}
    (h : ∀ n, k ≤ n → n < k + fuel → p n = false) : leastFrom p fuel k = none := by
  induction fuel generalizing k with
  | zero => rfl
  | succ fuel ih =>
    rw [leastFrom, h k (Nat.le_refl k) (by omega)]
    exact ih fun n hk hn => h n (by omega) (by omega)

omit hs hc in
theorem leastFrom_some {p : Nat → Bool} {fuel k n : Nat} (h : leastFrom p fuel k = some n) :
    p n = true := by
  induction fuel generalizing k with
  | zero => cases h
  | succ fuel ih =>
    unfold leastFrom at h
    split at h
    · next e => cases h; exact e
    · exact ih h

theorem State.openRecording_moves (s : State) {p : Nat} {g : Purpose} {k : Coding} {limit : Nat}
    {origin : Option (List Nat)} {r : Nat} {t : State}
    (h : s.openRecording p g k limit origin = some (r, t)) : Moves P s t := by
  unfold State.openRecording at h
  split at h
  · cases h
  · next r' hr =>
    split at h
    · cases h
    · next b u e =>
      cases h
      refine Moves.trans (.ofStore (fun _ h k => ((State.takeBlock_changes h e).trans
        (State.setBlock_changes h _ _ _)).trans (State.setRecording_changes h _ _ _)) hs hc
        fun _ h => ?_) (State.establish_moves hc _ _ _ _)
      obtain ⟨h1, h2, h3⟩ := State.takeBlock_books e h
      have free := leastFrom_some hr
      simp only [Option.isNone_iff_eq_none] at free
      exact h1.open (r := r) (b := b) (by rw [h2]; exact free) rfl rfl rfl rfl rfl
        (Table.find_put_same _ _ _) fun c hc => Table.find_put_other _ _ hc

omit hc in
theorem State.chainBlock_changes (s : State) (r : Nat) (v : Recording) (b : Nat) :
    Changes P s (s.chainBlock r v b) :=
  ((s.setBlock_changes hs _ _).trans (State.setNext_changes hs _ _ _)).trans
    (State.setRecording_changes hs _ _ _)

/-- The block at the pool head joins the end of a chain. -/
theorem State.growChain_moves {s t : State} {r b : Nat} {v : Recording}
    (h : s.takeBlock = some (b, t)) (hv : s.recording r = some v) : Moves P s (t.chainBlock r v b) := by
  refine .ofStore (fun _ k l => (State.takeBlock_changes k h).trans (State.chainBlock_changes k _ _ _ _))
    hs hc fun _ g => ?_
  obtain ⟨h1, h2, h3⟩ := State.takeBlock_books h g
  have hv' : t.dir.recordings.find r = some v := by rw [h2]; exact hv
  have cv := h1.chains r v (by simp) hv'
  have tail_ := cv.block cv.tail_mem
  have hne : v.tail ≠ b := fun f => by rw [f, (h1.outFree b (by simp)).2] at tail_; cases tail_
  have tail' : (t.setBlock b (.chained r none)).dir.block v.tail =
      some (.chained r (t.dir.nextOf v.tail)) := (Table.find_put_other _ _ hne).trans tail_
  obtain ⟨k1, k2, k3, k4⟩ := (t.setBlock b (.chained r none)).setNext_dir (some b) tail'
  exact h1.grow (w := { v with tail := b, blocks := v.blocks + 1 }) hv' rfl rfl rfl k3
    (congrArg (Table.put · r _) k4) ((k2 b (Ne.symm hne)).trans (Table.find_put_same _ _ _)) k1
    fun c hb ht => (k2 c ht).trans (Table.find_put_other _ _ hb)

theorem State.truncate_changes (s : State) (r run : Nat) : Changes P s (s.truncate r run) := by
  unfold State.truncate
  split
  · exact .refl s
  · exact ((s.setNext_changes hs _ _).trans (State.setRecording_changes hs _ _ _)).trans
      (State.freeBlocks_changes hs hc _ _)

omit hs hc in
/-- A chain cut after some of its blocks. -/
theorem State.cutAfter_books (s : State) {r n : Nat} {v w : Recording} (h : StoreBooks s.dir)
    (hv : s.recording r = some v) (hn : 1 ≤ n) (hh : w.head = v.head)
    (hk : w.blocks = ((s.dir.chainOf v).take n).length)
    (ht : w.tail = ((s.dir.chainOf v).take n).getLastD v.head) :
    StoreBooksBut ((s.setNext w.tail none).setRecording r w).dir none ((s.dir.chainOf v).drop n) [] := by
  have cv := h.chains r v hv
  obtain ⟨bs, hbs⟩ := cv.head
  obtain ⟨init, t, e⟩ : ∃ init t, (s.dir.chainOf v).take n = init ++ [t] := by
    rcases List.eq_nil_or_concat ((s.dir.chainOf v).take n) with g | ⟨i, t, g⟩
    · rw [hbs] at g
      obtain ⟨m, rfl⟩ := Nat.exists_eq_succ_of_ne_zero (Nat.ne_of_gt hn)
      cases g
    · exact ⟨i, t, by simpa using g⟩
  have all : s.dir.chainOf v = init ++ t :: (s.dir.chainOf v).drop n := by
    conv => lhs; rw [← List.take_append_drop n (s.dir.chainOf v), e]
    simp
  have tail_ : w.tail = t := by rw [ht, e]; simp
  have own := cv.block (b := t) (by rw [all]; simp)
  obtain ⟨k1, k2, k3, k4⟩ := s.setNext_dir none own
  rw [tail_]
  exact h.cut hv all hh tail_ (by rw [hk, e]; simp) k3 (congrArg (Table.put · r w) k4) k1 k2

omit hs hc in
theorem Coding.blocksFor_pos (c : Coding) (f : Nat) : 1 ≤ c.blocksFor f := Nat.le_max_left _ _

theorem State.truncate_moves (s : State) (r run : Nat) : Moves P s (s.truncate r run) := by
  refine .ofStore (fun _ k l => s.truncate_changes k l r run) hs hc fun _ g => ?_
  unfold State.truncate
  split
  · exact g
  · next v e =>
    exact (State.freeBlocks_books _ _ (s.cutAfter_books (w := { v with
      trimmed := s.dir.trimOf v run, frames := _, blocks := _, tail := _ }) g e
      (Coding.blocksFor_pos _ _) rfl rfl rfl)).whole

omit hs in
theorem State.flushChain_moves (s : State) (r : Nat) : Moves P s (s.flushChain r) := by
  unfold State.flushChain
  split
  · exact .refl s
  · refine s.withCache_moves hc fun h => ?_
    generalize s.dir.chainOf _ = bs
    generalize s.cache = c at h ⊢
    induction bs generalizing c with
    | nil => exact h
    | cons b rest ih => exact ih _ (Cache.flush_canonical h b)

/-! ## Write failures -/

theorem State.replaceBlock_changes (s : State) (r : Nat) (v : Recording) (b b' : Nat) :
    Changes P s (s.replaceBlock r v b b') := by
  unfold State.replaceBlock
  dsimp only
  refine Changes.trans (Changes.trans ?_ (State.setRecording_changes hs _ _ _))
    (State.onCache_moves hc _ fun c h => Cache.retag_canonical h b b').toChanges
  have h := (s.setBlock_changes (P := P) hs b .retired).trans
    (State.setBlock_changes hs _ b' (.chained r (s.dir.nextOf b)))
  split
  · exact h
  · exact h.trans (State.setNext_changes hs _ _ _)

omit hs hc in
theorem predecessor_none {b : Nat} {bs : List Nat} (h : b ∉ bs.tail) : predecessor b bs = none := by
  induction bs with
  | nil => rfl
  | cons a rest ih =>
    cases rest with
    | nil => rfl
    | cons c more =>
      simp only [List.tail_cons, List.mem_cons, not_or] at h
      unfold predecessor
      rw [if_neg (Ne.symm h.1)]
      exact ih h.2

omit hs hc in
/-- The predecessor of a block of a chain is the last block before it. -/
theorem predecessor_append {b : Nat} {older younger : List Nat} (h : b ∉ older) (g : b ∉ younger) :
    predecessor b (older ++ b :: younger) = older.getLast? := by
  induction older with
  | nil => exact predecessor_none g
  | cons a rest ih =>
    cases rest with
    | nil => simp [predecessor]
    | cons c more =>
      have hc : c ≠ b := fun e => h (by simp [e])
      have := ih (fun m => h (List.mem_cons_of_mem _ m))
      simp only [List.cons_append] at this ⊢
      unfold predecessor
      rw [if_neg hc, this]
      simp [List.getLast?_cons]

/-- A failed block is replaced by the block at the pool head. -/
theorem State.remap_moves {s t : State} {r b b' : Nat} {v : Recording} {n : Option Nat}
    (h : s.takeBlock = some (b', t)) (hv : s.recording r = some v)
    (hb : s.dir.block b = some (.chained r n)) : Moves P s (t.replaceBlock r v b b') := by
  refine .ofStore (fun _ k l => (State.takeBlock_changes k h).trans
    (State.replaceBlock_changes k l _ _ _ _ _)) hs hc fun _ g => ?_
  obtain ⟨h1, h2, h3⟩ := State.takeBlock_books h g
  have hv' : t.dir.recordings.find r = some v := by rw [h2]; exact hv
  have mem : b ∈ t.dir.chainOf v := by
    rcases h1.owned b r n ((h3 b).trans hb) with m | ⟨_, u, hu, m⟩
    · cases m
    · rw [hv'] at hu; cases hu; exact m
  obtain ⟨older, younger, e⟩ := List.append_of_mem mem
  have cv := h1.chains r v (by simp) hv'
  have no := cv.once
  rw [e] at no
  obtain ⟨n1, n2, n3⟩ := List.nodup_append.1 no
  have pre : predecessor b (t.dir.chainOf v) = older.getLast? := by
    rw [e]; exact predecessor_append (fun m => n3 b m b (by simp) rfl) (List.nodup_cons.1 n2).1
  have free' := (h1.outFree b' (by simp)).2
  have hne : b ≠ b' := fun f => by rw [← f, h3, hb] at free'; cases free'
  have w : StoreBooks (t.replaceBlock r v b b').dir := by
    unfold State.replaceBlock
    dsimp only
    rw [pre]
    cases k : older.getLast? with
    | none =>
      refine h1.replace (w := { v with
          head := if v.head = b then b' else v.head, tail := if v.tail = b then b' else v.tail })
        hv' e rfl rfl rfl rfl rfl ?_ ?_ (fun a f => by rw [k] at f; cases f) fun c f1 f2 _ => ?_
      · exact (Table.find_put_other _ _ hne).trans (Table.find_put_same _ _ _)
      · exact Table.find_put_same _ _ _
      · exact (Table.find_put_other _ _ f2).trans (Table.find_put_other _ _ f1)
    | some a =>
      have am := List.mem_of_getLast? k
      have ab : a ≠ b := fun f => n3 a am b (by simp) f
      have ac := cv.block (b := a) (by rw [e]; simp [am])
      have ab' : a ≠ b' := fun f => by rw [f, free'] at ac; cases ac
      have old : ((t.setBlock b .retired).setBlock b' (.chained r (t.dir.nextOf b))).dir.block a =
          some (.chained r (t.dir.nextOf a)) :=
        ((Table.find_put_other _ _ ab').trans (Table.find_put_other _ _ ab)).trans ac
      obtain ⟨k1, k2, k3, k4⟩ := State.setNext_dir _ (some b') old
      refine h1.replace (w := { v with
          head := if v.head = b then b' else v.head, tail := if v.tail = b then b' else v.tail })
        hv' e rfl rfl rfl k3 (congrArg (Table.put · r _) k4) ?_ ?_
        (fun c f => by rw [k] at f; cases f; exact k1) fun c f1 f2 f3 => ?_
      · exact (k2 b (Ne.symm ab)).trans
          ((Table.find_put_other _ _ hne).trans (Table.find_put_same _ _ _))
      · exact (k2 b' (Ne.symm ab')).trans (Table.find_put_same _ _ _)
      · have ca : c ≠ a := fun f => f3 (f ▸ k)
        exact (k2 c ca).trans ((Table.find_put_other _ _ f2).trans (Table.find_put_other _ _ f1))
  exact w

theorem State.cutChain_changes (s : State) (r : Nat) (v : Recording) (b : Nat) :
    Changes P s (s.cutChain r v b) := by
  unfold State.cutChain
  dsimp only
  have h := (s.setBlock_changes (P := P) hs b .retired).trans
    (State.onCache_moves hc _ (f := fun c => (c.discard b).1)
      fun c h => Cache.discard_canonical h b).toChanges
  split
  · exact (h.trans (State.freeBlocks_changes hs hc _ _)).trans (State.emptyRecording_changes hs _ _)
  · exact ((h.trans (State.setNext_changes hs _ _ _)).trans (State.setRecording_changes hs _ _ _)).trans
      (State.freeBlocks_changes hs hc _ _)

/-- A chain is cut at a failed block. -/
theorem State.cutChain_moves (s : State) {r b : Nat} {v : Recording} {n : Option Nat}
    (hv : s.recording r = some v) (hb : s.dir.block b = some (.chained r n)) :
    Moves P s (s.cutChain r v b) := by
  refine .ofStore (fun _ k l => s.cutChain_changes k l r v b) hs hc fun _ g => ?_
  have mem : b ∈ s.dir.chainOf v := by
    obtain ⟨u, hu, m⟩ := g.owned b r n hb
    rw [show s.dir.recordings.find r = some v from hv] at hu; cases hu; exact m
  have cv := g.chains r v hv
  have no := cv.once
  have hlt : (s.dir.chainOf v).findIdx (· == b) < (s.dir.chainOf v).length :=
    List.findIdx_lt_length_of_exists ⟨b, mem, by simp⟩
  have hget : (s.dir.chainOf v)[(s.dir.chainOf v).findIdx (· == b)] = b := by
    simpa using List.findIdx_getElem (p := (· == b)) (w := hlt)
  have hdrop : (s.dir.chainOf v).drop ((s.dir.chainOf v).findIdx (· == b)) =
      b :: (s.dir.chainOf v).drop ((s.dir.chainOf v).findIdx (· == b) + 1) := by
    rw [List.drop_eq_getElem_cons hlt, hget]
  have hnot (c : Nat) (m : c ∈ (s.dir.chainOf v).take ((s.dir.chainOf v).findIdx (· == b))) : c ≠ b := by
    rintro rfl
    rw [← List.take_append_drop ((s.dir.chainOf v).findIdx (· == c)) (s.dir.chainOf v), hdrop] at no
    exact (List.nodup_append.1 no).2.2 c m c (by simp) rfl
  unfold State.cutChain
  dsimp only
  generalize (s.dir.chainOf v).findIdx (· == b) = i at hlt hget hdrop hnot ⊢
  split
  · next i0 =>
    subst i0
    simp only [List.drop_zero] at hdrop
    have h := (g.release (r := r) hv).mark (b := b) (st := .retired)
      (e := ((s.setBlock b .retired).onCache fun c => (c.discard b).1).dir) (.inl mem) (by simp) rfl rfl
      (Table.find_put_same _ _ _) fun c hc => Table.find_put_other _ _ hc
    have he : (s.dir.chainOf v).erase b = (s.dir.chainOf v).drop (0 + 1) := by
      rw [hdrop]; simp
    rw [he] at h
    exact (StoreBooksBut.empty (r := r) (e := ((State.freeBlocks _ _).emptyRecording r).dir)
      (State.freeBlocks_books _ _ h) rfl rfl rfl).whole
  · next i0 =>
    refine (State.freeBlocks_books _ _ ?_).whole
    have h := s.cutAfter_books (r := r) (n := i) (w := { v with
      frames := i * v.coding.fpb, blocks := i, tail := ((s.dir.chainOf v).take i).getLastD v.head
      cut := true }) g hv (Nat.pos_of_ne_zero i0) rfl (by simp; omega) rfl
    rw [hdrop] at h
    have tm : ((s.dir.chainOf v).take i).getLastD v.head ∈ (s.dir.chainOf v).take i := by
      rcases List.eq_nil_or_concat ((s.dir.chainOf v).take i) with k | ⟨l, t, k⟩
      · have : ((s.dir.chainOf v).take i).length = 0 := by rw [k]; rfl
        rw [List.length_take] at this; omega
      · rw [k]; simp
    have tb := hnot _ tm
    have town := cv.block (List.mem_of_mem_take tm)
    have town' : ((s.setBlock b .retired).onCache fun c => (c.discard b).1).dir.block
        (((s.dir.chainOf v).take i).getLastD v.head) = _ := (Table.find_put_other _ _ tb).trans town
    obtain ⟨k1, k2, k3, k4⟩ := s.setNext_dir none town
    obtain ⟨l1, l2, l3, l4⟩ := State.setNext_dir _ none town'
    have m := h.mark (b := b) (st := .retired)
      (e := ((((s.setBlock b .retired).onCache fun c => (c.discard b).1).setNext
        (((s.dir.chainOf v).take i).getLastD v.head) none).setRecording r _).dir)
      (.inl (by simp)) (by simp) (l3.trans k3.symm)
      (congrArg (Table.put · r _) (l4.trans k4.symm))
      ((l2 b (Ne.symm tb)).trans (Table.find_put_same _ _ _)) fun c hc => ?_
    · rw [List.erase_cons_head] at m
      exact m
    · by_cases k : c = ((s.dir.chainOf v).take i).getLastD v.head
      · rw [k]; exact l1.trans k1.symm
      · exact ((l2 c k).trans (Table.find_put_other _ _ hc)).trans (k2 c k).symm

end Store

end Sys2Proof.Machine
end

