-- ==== Sys2Proof/Laws/MovesBoxes.lean ====
section
/-! SUPPORT. What each operation on boxes, messages, greetings, prompts, lists and jobs can do. -/

namespace Sys2Proof.Machine

variable {P : Parts}

section Boxes
variable (hs : P.store = true) (hb : P.boxes = true) (hc : P.cache = true) (hl : P.lamps = true)

include hs hb hc in
theorem State.createEntry_moves (s : State) {b r : Nat} {src : MsgSource} {u : Bool}
    {sender : Option (List Nat)} {j : Option Nat} {e : Nat} {t : State}
    (h : s.createEntry b r src u sender j = .ok (e, t)) : Moves P s t := by
  unfold State.createEntry at h
  split at h
  · cases h
  · split at h
    · cases h
    · split at h
      · cases h
      · cases h
        exact ((s.setEntry_moves hb _ _).trans (State.addRef_moves hs hc _ _)).trans
          (State.onBox_moves hb _ _ _)

include hs hb hc in
theorem State.removeEntry_moves (s : State) (e : Nat) : Moves P s (s.removeEntry e) := by
  unfold State.removeEntry
  split
  · exact .refl s
  · exact ((s.onBox_moves hb _ _).trans (State.freeEntry_moves hb _ _)).trans
      (State.releaseRef_moves hs hc _ _)

include hs hb hc in
theorem State.removeEntries_moves (s : State) (es : List Nat) : Moves P s (s.removeEntries es) :=
  Moves.foldl (fun s e => s.removeEntry_moves hs hb hc e) es s

include hb hl in
theorem State.markEntry_moves (s : State) (e : Nat) (st : MsgState) : Moves P s (s.markEntry e st) := by
  unfold State.markEntry
  split
  · exact .refl s
  · next v _ =>
    refine Moves.ite (.refl s) ?_
    have h := (s.setEntry_moves hb e { v with state := st, stateDay := s.day }).trans
      (State.onBox_moves hb _ v.box fun x =>
        { (x.uncount v).count { v with state := st, stateDay := s.day } with
          messages := s.dir.place (Entry.band { v with state := st, stateDay := s.day }) e
            (x.messages.erase e) })
    exact Moves.ite (h.trans (State.recompute_moves hl _ _)) h

include hb hl in
theorem State.markHeard_moves (s : State) (b r : Nat) : Moves P s (s.markHeard b r) := by
  unfold State.markHeard
  split
  · exact .refl s
  · exact Moves.ite (s.markEntry_moves hb hl _ _) (.refl s)

include hs hb hc in
theorem State.clearGreeting_moves (s : State) (b : Nat) (g : GreetingSlot) :
    Moves P s (s.clearGreeting b g) :=
  (s.onBox_moves hb _ _).trans (State.releaseOpt_moves hs hc _ _)

include hs hc in
theorem State.clearPrompt_moves (hp : P.prompts = true) (s : State) (n : Nat) :
    Moves P s (s.clearPrompt n) :=
  (s.dropPrompt_moves hp n).trans (State.releaseOpt_moves hs hc _ _)

include hb in
theorem State.countRefusal_moves (s : State) (b : Nat) : Moves P s (s.countRefusal b) :=
  s.onBox_moves hb _ _

include hb hl in
theorem State.reserve_moves (s : State) (b n : Nat) : Moves P s (s.reserve b n) :=
  (s.onBox_moves hb _ _).trans (State.recompute_moves hl _ _)

include hb hl in
theorem State.settle_moves (s : State) (b n c : Nat) : Moves P s (s.settle b n c) :=
  (s.onBox_moves hb _ _).trans (State.recompute_moves hl _ _)

end Boxes

/-! ## Jobs and lists -/

theorem onHead_length (f : Job → Job) (js : List Job) : (onHead f js).length = js.length := by
  cases js <;> rfl

section Jobs
variable (hj : P.jobs = true)
include hj

theorem State.onHeadJob_moves (s : State) (f : Job → Job) : Moves P s (s.onJobs (onHead f)) :=
  s.onJobs_moves hj fun js => le_of_eq (onHead_length f js)

theorem State.activateHead_moves (s : State) : Moves P s s.activateHead := s.onHeadJob_moves hj _

/-- A job joins a queue that has room. -/
theorem State.queueJob_moves (hs : P.store = true) (hc : P.cache = true) (s : State) (r : Nat) (l : Option Nat) (u : Bool)
    (hroom : s.jobsFull = false) : Moves P s (s.queueJob r l u) := by
  have hroom : s.jobs.length < Config.maxJobs := by simpa [State.jobsFull] using hroom
  have h : Moves P (s.addRef r) ((s.addRef r).onJobs (· ++ [{
      number := freeJobNumber s.jobs, recording := r, list := l, urgent := u,
      cursor := .waiting, count := 0, inactive := 0, full := 0, duplicate := 0 }])) :=
    Changes.apart { Changes.refl (P := P) (s.addRef r) with
      jobs := .inl hj
      jobsIn := fun _ => by
        have e : (s.addRef r).jobs = s.jobs := by
          unfold State.addRef State.onRecording
          split <;> rfl
        simp only [State.onJobs_jobs, e, List.length_append, List.length_cons, List.length_nil]
        exact hroom } rfl rfl rfl rfl rfl rfl
  exact ((s.addRef_moves hs hc r).trans h).trans (State.activateHead_moves hj _)

theorem State.endJob_moves (hs : P.store = true) (hc : P.cache = true) (s : State) (j : Job)
    (o : JobOutcome) : Moves P s (s.endJob j o) :=
  (((s.raise_moves _ _).trans (State.releaseRef_moves hs hc _ _)).trans
    (State.onJobs_moves hj _ fun _ => List.length_filter_le _ _)).trans
    (State.activateHead_moves hj _)

theorem State.endJobs_moves (hs : P.store = true) (hc : P.cache = true) (s : State) (js : List Job)
    (o : JobOutcome) : Moves P s (s.endJobs js o) :=
  Moves.foldl (fun s j => s.endJob_moves hj hs hc j o) js s

theorem State.addMember_moves (hl : P.lists = true) (s : State) (l b : Nat) :
    Moves P s (s.addMember l b) :=
  (s.setMembers_moves hl _ _).trans (State.onHeadJob_moves hj _ _)

theorem State.removeMember_moves (hl : P.lists = true) (s : State) (l b : Nat) :
    Moves P s (s.removeMember l b) :=
  (s.onHeadJob_moves hj _).trans (State.setMembers_moves hl _ _ _)

theorem State.deleteList_moves (hs : P.store = true) (hc : P.cache = true) (hl : P.lists = true)
    (s : State) (l : Nat) : Moves P s (s.deleteList l) :=
  (s.endJobs_moves hj hs hc _ _).trans (State.dropList_moves hl _ _)

theorem State.passMember_moves (s : State) (l b : Nat) (f : Job → Job) :
    Moves P s (s.passMember l b f) := s.onHeadJob_moves hj _

variable (hs : P.store = true) (hb : P.boxes = true) (hc : P.cache = true) (hl : P.lamps = true)
include hs hb hc hl

theorem State.deliverStep_moves (s : State) (j : Job) (l b : Nat) :
    Moves P s (s.deliverStep j l b) := by
  unfold State.deliverStep
  split
  · exact s.passMember_moves hj _ _ _
  · exact s.passMember_moves hj _ _ _
  · exact s.passMember_moves hj _ _ _
  · exact s.endJob_moves hj hs hc _ _
  · exact s.endJob_moves hj hs hc _ _
  · dsimp only
    split
    · next e =>
      exact ((s.createEntry_moves hs hb hc e).trans (State.recompute_moves hl _ _)).trans
        (State.passMember_moves hj _ _ _ _)
    · exact .refl s

theorem State.recallStep_moves (s : State) (j : Job) (b : Nat) : Moves P s (s.recallStep j b) := by
  unfold State.recallStep
  have last (t : State) (ht : Moves P s t) : Moves P s
      (if b + 1 < Config.numBoxes then t.onJobs (onHead fun k => { k with cursor := .at (b + 1) })
      else match t.jobs with
        | [] => t
        | k :: _ => t.endJob k .completed) := by
    refine Moves.ite (ht.trans (State.onHeadJob_moves hj _ _)) ?_
    split
    · exact ht
    · exact ht.trans (State.endJob_moves hj hs hc _ _ _)
  refine last _ ?_
  split
  · exact .refl s
  · exact ((s.removeEntry_moves hs hb hc _).trans (State.recompute_moves hl _ _)).trans
      (State.onHeadJob_moves hj _ _)

theorem State.stepJob_moves (s : State) : Moves P s s.stepJob := by
  unfold State.stepJob
  split
  · exact .refl s
  · split
    · exact .refl s
    · exact s.endJob_moves hj hs hc _ _
    · exact s.deliverStep_moves hj hs hb hc hl _ _ _
    · exact s.recallStep_moves hj hs hb hc hl _ _

theorem State.clearBox_moves (hd : P.lists = true) (s : State) (b : Nat) :
    Moves P s (s.clearBox b) := by
  have clear (t : State) : Moves P t
      ([GreetingSlot.standard, .busy, .absence, .name].foldl (fun s g => s.clearGreeting b g) t) :=
    Moves.foldl (fun s g => s.clearGreeting_moves hs hb hc b g) _ t
  have leave (t : State) : Moves P t ((t.listsHolding b).foldl (fun s l => s.removeMember l b) t) :=
    Moves.foldl (fun s l => s.removeMember_moves hj hd l b) _ t
  have last (t : State) : Moves P t (((t.clearLamp b).setBox b Box.unassigned).recompute b) :=
    (((State.unmapLamp_moves hl t b).trans (State.tweakLamp_moves hl _ b _
      ⟨rfl, rfl, fun _ => rfl⟩)).trans
      (State.setBox_moves hb _ b _)).trans (State.recompute_moves hl _ b)
  unfold State.clearBox
  dsimp only
  exact ((s.removeEntries_moves hs hb hc _).trans (clear _)).trans ((leave _).trans (last _))

end Jobs

end Sys2Proof.Machine
end

