-- ==== Sys2Proof/Laws/MovesPorts.lean ====
section
/-! SUPPORT. What each operation of the Port Array can do: play levels and copying, operations and
sealing, captures, and the ends of flash operations. -/

namespace Sys2Proof.Machine

variable {P : Parts}

/-! ## The bounds of a port -/

theorem Port.silenced_bounded {q : Port} (h : q.bounded) : q.silenced.bounded :=
  ⟨Nat.zero_le _, h.2⟩

theorem Port.rested_bounded (q : Port) : q.rested.bounded := ⟨Nat.zero_le _, Nat.zero_le _⟩

theorem Port.fadeOn_bounded {q : Port} (h : q.bounded) (l : Level) (x : QueuedFrame) :
    (q.fadeOn l x).bounded := by
  unfold Port.fadeOn
  split
  · split
    · exact h
    · split <;> exact h
  · exact h

theorem Port.sendFrame_bounded {q : Port} (h : q.bounded) (st : Settings) (l : Level) :
    (q.sendFrame st l).2.bounded := by
  unfold Port.sendFrame
  split
  · next x rest _ =>
    dsimp only
    exact Port.fadeOn_bounded (q := Port.rampStep { q with playout := rest, level := some _ }) h l x
  · split <;> exact h

theorem Port.examine_bounded {q : Port} (h : q.bounded) (st : Settings) (k : Nat) :
    (q.examine st k).bounded := by
  unfold Port.examine
  dsimp only
  split
  · exact h
  · split <;> exact h
  · split <;> exact h

theorem Port.receive_bounded {q : Port} (h : q.bounded) (x : Frame) : (q.receive x).bounded := by
  unfold Port.receive
  split
  · next hlt =>
    refine ⟨h.1, ?_⟩
    simp only [List.length_append, List.length_cons, List.length_nil]
    exact hlt
  · exact h

theorem Port.checkBit_bounded {q : Port} (h : q.bounded) (b : Bool) : (q.checkBit b).bounded := by
  unfold Port.checkBit
  split
  · exact h
  · dsimp only
    split
    · exact h
    · split
      · split <;> exact h
      · split
        · exact h
        · split <;> exact h

theorem Port.checkFrame_bounded {q : Port} (h : q.bounded) (f : Frame) :
    (q.checkFrame f).bounded := by
  unfold Port.checkFrame
  generalize f.flatMap bitsOfByte = bs
  induction bs generalizing q with
  | nil => exact h
  | cons b rest ih => exact ih (Port.checkBit_bounded h b)

theorem Port.testFrame_bounded {q : Port} (h : q.bounded) (t : PathTest) (d : Nat) (x : Frame) :
    (q.testFrame t d x).2.bounded := by
  unfold Port.testFrame
  split
  · have g : (if q.playout.length < d then { q with playout := q.playout ++ [⟨0, 0, x⟩] }
        else q.countOverflow).bounded := by split <;> exact h
    unfold Port.echoFrame
    dsimp only
    split
    · split <;> exact g
    · exact g
  · dsimp only
    generalize t.sendBytes Config.frameSamples = u
    exact Port.checkFrame_bounded (q := { q with pathTest := some u.2 }) h x
  · dsimp only
    generalize t.sendBytes Config.frameSamples = u
    exact Port.checkFrame_bounded (q := { q with pathTest := some u.2 }) h u.1

theorem Port.startFade_bounded {q : Port} (h : q.bounded) (all : Bool) : (q.startFade all).bounded := by
  unfold Port.startFade
  split
  · split <;> exact h
  · exact h

/-! ## Play levels and copying -/

section Playout
variable (hc : P.cache = true) (hp : P.ports = true)

theorem State.takeHolds_moves (hs : P.store = true) (hc : P.cache = true) (s : State) (gs : List Segment) :
    Moves P s (s.takeHolds gs) := Moves.foldl (fun s r => s.addRef_moves hs hc r) _ s

include hc

theorem State.touchFor_moves (s : State) (p b : Nat) : Moves P s (s.touchFor p b) :=
  s.onCache_moves hc fun _ h => Cache.touch_canonical h _ _ _

theorem State.touchAll_moves (s : State) (p : Nat) (bs : List Nat) : Moves P s (s.touchAll p bs) :=
  Moves.foldl (fun s b => s.touchFor_moves hc p b) bs s

theorem State.dropPin_moves (s : State) (p : Nat) : Moves P s (s.dropPin p) :=
  s.onCache_moves hc fun _ h => Cache.unpin_canonical h _

theorem State.pinFor_moves (s : State) (p n : Nat) : Moves P s (s.pinFor p n) :=
  Moves.ite (.refl s) (s.onCache_moves hc fun _ h => Cache.pin_canonical h _ _)

theorem State.touchLow_moves (s : State) (p : Nat) : Moves P s (s.touchLow p) :=
  s.touchAll_moves hc _ _

theorem State.touchMissing_moves (s : State) (p : Nat) : Moves P s (s.touchMissing p) :=
  s.touchAll_moves hc _ _

include hp

theorem State.renewLookahead_moves (s : State) (p : Nat) : Moves P s (s.renewLookahead p) :=
  (s.onPort_moves hp p (f := fun q => { q with lookahead := s.lookaheadOf p }) fun _ h => h).trans
    (State.touchAll_moves hc _ _ _)

omit hc in
theorem State.queueFrame_moves (s : State) (p : Nat) (l : Level) (k f : Nat) (x : Frame) :
    Moves P s (s.queueFrame p l k f x) := s.onPort_moves hp p fun _ h => h

theorem State.leaveBlock_moves (s : State) (p r : Nat) (g : Segment) (f : Nat) :
    Moves P s (s.leaveBlock p r g f) :=
  Moves.ite ((s.dropPin_moves hc p).trans (State.renewLookahead_moves hc hp _ p)) (.refl s)

theorem State.copyNext_moves (s : State) (p : Nat) : Moves P s (s.copyNext p).1 := by
  unfold State.copyNext
  split
  · split
    · exact .refl s
    · split
      · exact Moves.ite ((s.queueFrame_moves hp _ _ _ _ _).trans
          (State.renewLookahead_moves hc hp _ p)) (s.queueFrame_moves hp _ _ _ _ _)
      · split
        · exact .refl s
        · split
          · exact ((s.pinFor_moves hc _ _).trans (State.queueFrame_moves hp _ _ _ _ _ _)).trans
              (State.leaveBlock_moves hc hp _ _ _ _ _)
          · exact (s.queueFrame_moves hp _ _ _ _ _).trans
              (State.leaveBlock_moves hc hp _ _ _ _ _)
          · exact .refl s
          · exact s.touchFor_moves hc _ _
  · exact .refl s

theorem State.copyFrames_moves (s : State) (p n : Nat) : Moves P s (s.copyFrames p n) := by
  induction n generalizing s with
  | zero => exact .refl s
  | succ n ih =>
    unfold State.copyFrames
    refine Moves.ite ?_ (.refl s)
    have h := s.copyNext_moves hc hp p
    split
    · next e => rw [e] at h; exact h.trans (ih _)
    · next e => rw [e] at h; exact h

theorem State.copy_moves (s : State) (p : Nat) : Moves P s (s.copy p) :=
  Moves.ite (s.copyFrames_moves hc hp p 64) (.refl s)

theorem State.startLevel_moves (s : State) (p : Nat) (l : Level) : Moves P s (s.startLevel p l) :=
  (s.onPort_moves hp p (by exact fun _ h => h)).trans (State.renewLookahead_moves hc hp _ p)

omit hc in
theorem State.onOp_moves (s : State) (p : Nat) (f : OpRecord → OpRecord) : Moves P s (s.onOp p f) :=
  s.onPort_moves hp p fun _ h => h

omit hc in
theorem State.finish_moves (s : State) (p : Nat) (o : PortOutcome) (w : Option EndReason)
    (x : DoneDetails) : Moves P s (s.finish p o w x) :=
  (s.onPort_moves hp p fun q _ => Port.rested_bounded q).trans (State.raise_moves _ _ _)

end Playout

/-- The parts that the Port Array's operations may change: all but settings and lists. -/
structure Parts.wide (P : Parts) : Prop where
  store : P.store = true
  boxes : P.boxes = true
  prompts : P.prompts = true
  cache : P.cache = true
  ports : P.ports = true
  jobs : P.jobs = true
  lamps : P.lamps = true

/-! ## Operations -/

section Operations
variable (h : P.wide)
include h

theorem State.silence_moves (s : State) (p : Nat) (rs : List Nat) : Moves P s (s.silence p rs) :=
  ((s.onPort_moves h.ports p fun _ => Port.silenced_bounded).trans
    (State.releaseRefs_moves h.store h.cache _ _)).trans (State.dropPin_moves h.cache _ p)

theorem State.dropPlay_moves (s : State) (p : Nat) : Moves P s (s.dropPlay p) :=
  s.silence_moves h p _

theorem State.settleHeld_moves (s : State) (p n : Nat) : Moves P s (s.settleHeld p n) := by
  unfold State.settleHeld
  split
  · exact .refl s
  · split
    · exact (s.onPort_moves h.ports p (by exact fun _ b => b)).trans
        (State.settle_moves h.boxes h.lamps _ _ _ _)
    · exact .refl s

theorem State.endOp_moves (s : State) (p : Nat) (o : PortOutcome) : Moves P s (s.endOp p o) :=
  ((s.dropPlay_moves h p).trans (State.settleHeld_moves h _ p 0)).trans
    (State.finish_moves h.ports _ p _ _ _)

theorem State.endUnowned_moves (s : State) (p : Nat) (o : PortOutcome) (b : Option Nat) :
    Moves P s (s.endUnowned p o b) := s.finish_moves h.ports p _ _ _

theorem State.endPlay_moves (s : State) (p : Nat) (o : PortOutcome) (w : Option EndReason) :
    Moves P s (s.endPlay p o w) :=
  (s.dropPlay_moves h p).trans (State.finish_moves h.ports _ p _ _ _)

theorem State.refusedOpen_moves (s : State) (p : Nat) : Moves P s (s.refusedOpen p) := by
  have g := s.onOp_moves h.ports p fun o => { o with phase := .refusal }
  have e := g.trans (State.endOp_moves h _ p .notAdmitted)
  have plays (r : Nat) (l : Level) : Moves P s
      (((s.onOp p fun o => { o with phase := .refusal }).addRef r).startLevel p l) :=
    (g.trans (State.addRef_moves h.store h.cache _ r)).trans (State.startLevel_moves h.cache h.ports _ p l)
  unfold State.refusedOpen
  dsimp only
  split
  · exact e
  · split
    · exact e
    · exact plays _ _

omit h in
theorem Port.beginCapture_bounded (q : Port) (o : OpRecord) (r : Nat) : (q.beginCapture o r).bounded :=
  ⟨Nat.zero_le _, Nat.zero_le _⟩

theorem State.openAtToneEnd_moves (s : State) (p : Nat) (o : OpRecord) :
    Moves P s (s.openAtToneEnd p o) := by
  have g := s.dropPin_moves (P := P) h.cache p
  unfold State.openAtToneEnd
  dsimp only
  split
  · next e =>
    exact (g.trans (State.openRecording_moves h.store h.cache _ e)).trans
      (State.onPort_moves h.ports _ p (by exact fun q _ => Port.beginCapture_bounded q o _))
  · have k := (g.trans (State.settleHeld_moves h _ p 0)).trans
      (State.onOp_moves h.ports _ p fun o => { o with endReason := some .pool })
    exact Moves.ite (k.trans (State.refusedOpen_moves h _ p)) (k.trans (State.endOp_moves h _ p _))

theorem State.sealDeposit_moves (s : State) (p : Nat) (o : OpRecord) (r : Nat) (v : Recording)
    (b : Nat) : Moves P s (s.sealDeposit p o r v b) := by
  unfold State.sealDeposit
  dsimp only
  split
  · next e =>
    exact (((s.createEntry_moves h.store h.boxes h.cache e).trans (State.settleHeld_moves h _ _ _)).trans
      (State.releaseRef_moves h.store h.cache _ _)).trans (State.finish_moves h.ports _ _ _ _ _)
  · exact ((s.settleHeld_moves h _ _).trans (State.releaseRef_moves h.store h.cache _ _)).trans
      (State.endUnowned_moves h _ _ _ _)

theorem State.sealGreeting_moves (s : State) (p : Nat) (o : OpRecord) (r : Nat) (v : Recording)
    (b : Nat) (g : GreetingSlot) : Moves P s (s.sealGreeting p o r v b g) :=
  Moves.ite ((s.releaseRef_moves h.store h.cache _).trans (State.endUnowned_moves h _ _ _ _))
    (((((s.addRef_moves h.store h.cache _).trans (State.onBox_moves h.boxes _ _ _)).trans
      (State.releaseOpt_moves h.store h.cache _ _)).trans
      (State.releaseRef_moves h.store h.cache _ _)).trans (State.finish_moves h.ports _ _ _ _ _))

theorem State.sealPrompt_moves (s : State) (p : Nat) (o : OpRecord) (r : Nat) (v : Recording)
    (n : Nat) : Moves P s (s.sealPrompt p o r v n) :=
  ((((s.addRef_moves h.store h.cache _).trans (State.putPrompt_moves h.prompts _ _ _)).trans
    (State.releaseOpt_moves h.store h.cache _ _)).trans
    (State.releaseRef_moves h.store h.cache _ _)).trans (State.finish_moves h.ports _ _ _ _ _)

theorem State.sealList_moves (s : State) (p : Nat) (o : OpRecord) (r : Nat) (v : Recording)
    (l : Nat) (u : Bool) : Moves P s (s.sealList p o r v l u) := by
  have gone (x : PortOutcome) : Moves P s ((s.releaseRef r).endUnowned p x none) :=
    (s.releaseRef_moves h.store h.cache _).trans (State.endUnowned_moves h _ _ _ _)
  unfold State.sealList
  refine Moves.ite (gone _) ?_
  split
  · exact gone _
  · next e =>
    exact ((s.queueJob_moves h.jobs h.store h.cache r (some l) u (by simpa using e)).trans
      (State.releaseRef_moves h.store h.cache _ _)).trans (State.finish_moves h.ports _ _ _ _ _)

theorem State.sealNow_moves (s : State) {r : Nat} {v : Recording} (hv : s.recording r = some v) :
    Moves P s (s.sealNow r v) := by
  unfold State.sealNow
  split
  · exact .refl s
  · split
    · exact .refl s
    · refine Moves.ite ((s.releaseRef_moves h.store h.cache _).trans (State.endOp_moves h _ _ _)) ?_
      have g := s.setRecording_moves h.store h.cache hv (w := { v with state := .sealed }) ⟨rfl, rfl, rfl⟩
      dsimp only
      split
      · exact g.trans (State.sealDeposit_moves h _ _ _ _ _ _)
      · exact g.trans (State.sealGreeting_moves h _ _ _ _ _ _ _)
      · exact g.trans (State.sealPrompt_moves h _ _ _ _ _ _)
      · exact g.trans (State.sealList_moves h _ _ _ _ _ _ _)

theorem State.sealTest_moves (s : State) (r : Nat) : Moves P s (s.sealTest r) := by
  unfold State.sealTest
  split
  · exact .refl s
  · next e => exact Moves.ite (s.sealNow_moves h e) (.refl s)

theorem State.abandon_moves (s : State) (p r : Nat) (o : PortOutcome) : Moves P s (s.abandon p r o) :=
  (s.releaseRef_moves h.store h.cache _).trans (State.endOp_moves h _ _ _)

theorem State.startSealing_moves (s : State) (r : Nat) : Moves P s (s.startSealing r) :=
  ((s.onRecording_moves h.store h.cache r (f := fun v => { v with state := .sealing })
    fun _ => ⟨rfl, rfl, rfl⟩).trans (State.flushChain_moves h.cache _ _)).trans
    (State.sealTest_moves h _ _)

omit h in
theorem Port.settleQuiet_bounded {q : Port} (g : q.bounded) : q.settleQuiet.bounded := by
  unfold Port.settleQuiet
  split <;> exact g

omit h in
theorem Port.closing_bounded {q : Port} (g : q.bounded) (w : EndReason) : (q.closing w).bounded :=
  ⟨(Port.settleQuiet_bounded g).1, Nat.zero_le _⟩

theorem State.endCapture_moves (s : State) (p : Nat) (w : EndReason) :
    Moves P s (s.endCapture p w) := by
  unfold State.endCapture
  split
  · exact .refl s
  · next r _ =>
    have g := ((s.onPort_moves h.ports p fun _ b => Port.closing_bounded b w).trans
      (State.dropPin_moves h.cache _ p)).trans
      (State.truncate_moves h.store h.cache _ r (s.port p).detector.trailing)
    dsimp only
    exact Moves.ite (g.trans (State.abandon_moves h _ _ _ _))
      (Moves.ite (g.trans (State.abandon_moves h _ _ _ _)) (g.trans (State.startSealing_moves h _ _)))

theorem State.abandonCapture_moves (s : State) (p : Nat) (o : PortOutcome) :
    Moves P s (s.abandonCapture p o) :=
  (((s.onPort_moves h.ports p
      (by exact fun _ b => ⟨(Port.settleQuiet_bounded b).1, Nat.zero_le _⟩)).trans
    (State.dropPin_moves h.cache _ p)).trans (State.releaseOpt_moves h.store h.cache _ _)).trans
    (State.endOp_moves h _ _ _)

theorem State.markDiscard_moves (s : State) (p : Nat) : Moves P s (s.markDiscard p) := by
  unfold State.markDiscard
  split
  · exact .refl s
  · exact s.onRecording_moves h.store h.cache _ fun _ => ⟨rfl, rfl, rfl⟩

/-! ## The advance of a level -/

theorem State.completeSegment_moves (s : State) (p : Nat) (l : Level) (g : Segment)
    (rest : List Segment) : Moves P s (s.completeSegment p l g rest) := by
  unfold State.completeSegment
  dsimp only
  refine Moves.trans (Moves.trans ?_ (State.onPort_moves h.ports _ p (by exact fun _ b => b)))
    (State.releaseOpt_moves h.store h.cache _ _)
  split
  · exact s.markHeard_moves h.boxes h.lamps _ _
  · exact .refl s

theorem State.baseEnds_moves (s : State) (p : Nat) : Moves P s (s.baseEnds p) := by
  unfold State.baseEnds
  split
  · exact s.endPlay_moves h _ _ _
  · have g := Moves.ite (c := ‹OpRecord›.noDeposit = true) (s.endOp_moves h p .greetingOnly)
      (s.endOp_moves h p .notAdmitted)
    split
    · exact s.openAtToneEnd_moves h _ _
    · exact g
    · exact g
    · exact g
    · exact g

theorem State.levelEnds_moves (s : State) (p : Nat) : Moves P s (s.levelEnds p) := by
  unfold State.levelEnds
  split
  · next l rest e =>
    refine Moves.trans (s.setPort_moves h.ports p fun b => ?_)
      (State.startLevel_moves h.cache h.ports _ _ _)
    have b1 : (s.port p).stack.length ≤ Config.maxStack := b.1
    rw [e, List.length_cons] at b1
    exact ⟨le_trans (Nat.le_succ _) b1, b.2⟩
  · exact s.baseEnds_moves h p

theorem State.advance_moves (s : State) (p n : Nat) : Moves P s (s.advance p n) := by
  induction n generalizing s with
  | zero => exact .refl s
  | succ n ih =>
    unfold State.advance
    split
    · exact .refl s
    · split
      · exact (s.levelEnds_moves h p).trans (ih _)
      · exact Moves.ite ((s.completeSegment_moves h _ _ _ _).trans (ih _))
          (s.onOp_moves h.ports _ _)

theorem State.playOn_moves (s : State) (p : Nat) : Moves P s (s.playOn p) := s.advance_moves h p _

theorem State.endOpFade_moves (s : State) (p : Nat) (o : OpRecord) (l : Level) :
    Moves P s (s.endOpFade p o l) := by
  have starts (rs : List Nat) (m : Level) :
      Moves P s (((s.silence p rs).startLevel p m).playOn p) :=
    ((s.silence_moves h p rs).trans (State.startLevel_moves h.cache h.ports _ _ _)).trans
      (State.playOn_moves h _ _)
  unfold State.endOpFade
  dsimp only
  split
  · exact Moves.ite (starts _ _) (Moves.ite (s.endOp_moves h _ _)
      (Moves.ite (s.endOp_moves h _ _) (starts _ _)))
  · exact s.endOp_moves h _ _
  · exact s.endOp_moves h _ _
  · exact s.endOp_moves h _ _
  · exact s.endOp_moves h _ _

theorem State.endPlayFade_moves (s : State) (p : Nat) (l : Level) (all : Bool) :
    Moves P s (s.endPlayFade p l all) := by
  unfold State.endPlayFade
  split
  · next top rest e =>
    refine Moves.ite (s.endPlay_moves h _ _ _) ?_
    refine Moves.trans (Moves.trans (Moves.trans (Moves.trans
      (s.setPort_moves h.ports p fun b => ?_) (State.releaseRefs_moves h.store h.cache _ _))
      (State.dropPin_moves h.cache _ p)) (State.startLevel_moves h.cache h.ports _ _ _))
      (State.playOn_moves h _ _)
    have b1 : (s.port p).stack.length ≤ Config.maxStack := b.1
    rw [e, List.length_cons] at b1
    exact ⟨le_trans (Nat.le_succ _) b1, b.2⟩
  · exact s.endPlay_moves h _ _ _

theorem State.endFade_moves (s : State) (p : Nat) (all : Bool) : Moves P s (s.endFade p all) := by
  unfold State.endFade
  split
  · exact s.endOpFade_moves h _ _ _
  · exact s.endPlayFade_moves h _ _ _
  · exact .refl s

/-! ## Captures and frame times -/

theorem State.quietStep_moves (s : State) (p : Nat) : Moves P s (s.quietStep p) := by
  unfold State.quietStep
  dsimp only
  refine Moves.ite ?_ (.refl s)
  have g : Moves P s (s.onPort p Port.settleQuiet) :=
    s.onPort_moves h.ports p fun _ b => Port.settleQuiet_bounded b
  exact Moves.ite (g.trans (State.endCapture_moves h _ _ _)) g

theorem State.timeoutStep_moves (s : State) (p : Nat) : Moves P s (s.timeoutStep p) :=
  Moves.ite (s.endCapture_moves h _ _) (.refl s)

theorem State.limitStep_moves (s : State) (p : Nat) : Moves P s (s.limitStep p) := by
  unfold State.limitStep
  dsimp only
  split
  · exact .refl s
  · exact Moves.ite (s.endCapture_moves h _ _) (.refl s)

theorem State.dueSteps_moves (s : State) (p : Nat) : Moves P s (s.dueSteps p) :=
  ((s.quietStep_moves h p).trans (State.timeoutStep_moves h _ p)).trans (State.limitStep_moves h _ p)

theorem State.storeFrame_moves (s : State) (p : Nat) {r : Nat} {v : Recording}
    (hv : s.recording r = some v) (n : Nat) (x : Frame) :
    Moves P s (s.storeFrame p r v n x) := by
  have kept (l : Line) : Moves P s (s.onCache fun c => c.setLine n l) :=
    s.onCache_moves h.cache fun _ c => Cache.setLine_canonical c _ _
  have examined (t : State) (st : Settings) (k : Nat) :
      Moves P t (t.onPort p fun q => Port.examine { q with capture := q.capture.drop 1 } st k) :=
    t.onPort_moves h.ports p fun q b =>
        Port.examine_bounded (q := { q with capture := q.capture.drop 1 })
          ⟨b.1, le_trans (by simp) b.2⟩ st k
  exact ((kept _).trans (State.setRecording_moves h.store h.cache _ hv (w := { v with
    frames := v.frames + 1, peakClass := max v.peakClass (frameClass s.dir.settings.thresholds x) })
    ⟨rfl, rfl, rfl⟩)).trans (examined _ _ _)

theorem State.growRecording_moves (s : State) {p r : Nat} {v : Recording} {t : State}
    (hv : s.recording r = some v) (e : s.growRecording p r v = some t) : Moves P s t := by
  unfold State.growRecording at e
  split at e
  · cases e
  · next b u et =>
    have g := (s.growChain_moves h.store h.cache et hv).trans
      (State.establish_moves h.cache _ b v.coding p)
    dsimp only at e
    split at e
    · cases e; exact g
    · cases e
      exact g.trans (State.onCache_moves h.cache _ fun _ c => Cache.moveOn_canonical c _ _)

theorem State.storeHead_moves (s : State) (p : Nat) : Moves P s (s.storeHead p) := by
  unfold State.storeHead
  dsimp only
  split
  · split
    · exact .refl s
    · next hv =>
      split
      · exact s.endCapture_moves h _ _
      · next e =>
        have g : Moves P s ‹State› := by
          split at e
          · cases e; exact .refl s
          · exact s.growRecording_moves h hv e
        split
        · exact g
        · split
          · exact g
          · exact g.trans (State.storeFrame_moves h _ _ ‹_› _ _)
  · exact .refl s

theorem State.repeatEstablish_moves (s : State) (p : Nat) : Moves P s (s.repeatEstablish p) := by
  unfold State.repeatEstablish
  split
  · exact .refl s
  · split
    · exact .refl s
    · exact Moves.ite (s.establish_moves h.cache _ _ _) (.refl s)

theorem State.playFrame_moves (s : State) (p : Nat) (l : Level) : Moves P s (s.playFrame p l).2 := by
  unfold State.playFrame
  dsimp only
  have a := s.setPort_moves (P := P) h.ports p (v := ((s.port p).sendFrame s.dir.settings l).2)
    fun b => Port.sendFrame_bounded b _ _
  have g := Moves.ite (c := s.fillLow p = false ∧
    (s.setPort p ((s.port p).sendFrame s.dir.settings l).2).fillLow p = true)
    (a.trans (State.touchLow_moves h.cache _ p)) (a.trans (State.touchMissing_moves h.cache _ p))
  exact Moves.trans (Moves.ite g (g.trans (State.playOn_moves h _ p)))
    (State.copy_moves h.cache h.ports _ p)

theorem State.fadeDue_moves (s : State) (p : Nat) : Moves P s (s.fadeDue p) := by
  unfold State.fadeDue
  split
  · exact Moves.ite (s.endFade_moves h _ _) (.refl s)
  · exact .refl s

theorem State.portFrame_moves (s : State) (p : Nat) (x : Frame) : Moves P s (s.portFrame p x).2 := by
  unfold State.portFrame
  dsimp only
  split
  · exact .refl s
  · exact .refl s
  · exact .refl s
  · split
    · exact .refl s
    · exact s.playFrame_moves h _ _
  · exact (s.onPort_moves h.ports p fun _ b => Port.receive_bounded b x).trans
      (State.repeatEstablish_moves h _ p)
  · split
    · exact .refl s
    · exact s.setPort_moves h.ports p fun b => Port.testFrame_bounded b _ _ _

/-! ## The ends of flash operations -/

omit h in
theorem State.storageFault_moves (s : State) (op : FlashOp) (t : Bool) (o : Option Nat)
    (d : Disposition) : Moves P s (s.storageFault op t o d) := s.raise_moves _ _

theorem State.copyWaiting_moves (s : State) (b : Nat) : Moves P s (s.copyWaiting b) :=
  Moves.foldl (fun s p => Moves.ite (s.copy_moves h.cache h.ports p) (.refl s)) _ s

theorem State.fillEnds_moves (s : State) (op : FlashOp) (u t : Bool) :
    Moves P s (s.fillEnds op u t) := by
  unfold State.fillEnds
  dsimp only
  have a := s.onCache_moves (P := P) h.cache (f := fun c => c.endFill op.line
    (if u then some (s.flashBlock op.block) else none)) fun _ c => Cache.endFill_canonical c _ _
  refine Moves.trans (Moves.trans (Moves.ite a ?_)
    (State.onCache_moves h.cache _ (by exact fun _ c => Cache.afterCompletion_canonical c _)))
    (State.copyWaiting_moves h _ _)
  exact (a.trans (State.onCache_moves h.cache _ (by exact fun _ c => c))).trans
    (State.storageFault_moves _ _ _ _ _)

theorem State.writeReported_moves (s : State) (b : Nat) : Moves P s (s.writeReported b) := by
  unfold State.writeReported
  split
  · exact s.appendFree_moves h.store h.cache ‹_›
  · exact s.sealTest_moves h _
  · exact .refl s
  · exact .refl s

theorem State.afterCut_moves (s : State) (r : Nat) (v : Recording) : Moves P s (s.afterCut r v) := by
  have g (p : Nat) : Moves P s
      (if s.framesOf r < Config.minFrames then s.abandon p r .tooShort else s.sealTest r) :=
    Moves.ite (s.abandon_moves h _ _ _) (s.sealTest_moves h _)
  unfold State.afterCut
  split
  · exact .refl s
  · split
    · exact s.endCapture_moves h _ _
    · exact g _
    · exact g _

theorem State.writeFailed_moves (s : State) (b : Nat) : Moves P s (s.writeFailed b).1 := by
  unfold State.writeFailed
  split
  · next hb =>
    split
    · exact .refl s
    · next hv =>
      split
      · next e => exact (s.remap_moves h.store h.cache e hv hb).trans (State.sealTest_moves h _ _)
      · exact (s.cutChain_moves h.store h.cache hv hb).trans (State.afterCut_moves h _ _ _)
  · exact s.retireDraining_moves h.store h.cache ‹_›
  · exact .refl s
  · exact .refl s

end Operations

end Sys2Proof.Machine
end

