-- ==== Sys2Proof/Laws/Reads.lean ====
section
/-! SUPPORT. Reading one kind of record after writing another: each writer of State leaves the records
of every other kind as they read before. -/

namespace Sys2Proof.Machine

variable (s : State)

/-! ## onDir -/

@[simp] theorem State.onDir_port (f : Directory → Directory) (p : Nat) :
    (s.onDir f).port p = s.port p := rfl
@[simp] theorem State.onDir_lamp (f : Directory → Directory) (b : Nat) :
    (s.onDir f).lamp b = s.lamp b := rfl
@[simp] theorem State.onDir_shelf (f : Directory → Directory) (n : Nat) :
    (s.onDir f).shelf n = s.shelf n := rfl
@[simp] theorem State.onDir_running (f : Directory → Directory) :
    (s.onDir f).running = s.running := rfl
@[simp] theorem State.onDir_day (f : Directory → Directory) :
    (s.onDir f).day = s.day := rfl

/-! ## onCache -/

@[simp] theorem State.onCache_recording (f : Cache → Cache) (r : Nat) :
    (s.onCache f).recording r = s.recording r := rfl
@[simp] theorem State.onCache_box (f : Cache → Cache) (b : Nat) :
    (s.onCache f).box b = s.box b := rfl
@[simp] theorem State.onCache_entry (f : Cache → Cache) (e : Nat) :
    (s.onCache f).entry e = s.entry e := rfl
@[simp] theorem State.onCache_members (f : Cache → Cache) (l : Nat) :
    (s.onCache f).members l = s.members l := rfl
@[simp] theorem State.onCache_port (f : Cache → Cache) (p : Nat) :
    (s.onCache f).port p = s.port p := rfl
@[simp] theorem State.onCache_lamp (f : Cache → Cache) (b : Nat) :
    (s.onCache f).lamp b = s.lamp b := rfl
@[simp] theorem State.onCache_shelf (f : Cache → Cache) (n : Nat) :
    (s.onCache f).shelf n = s.shelf n := rfl
@[simp] theorem State.onCache_running (f : Cache → Cache) :
    (s.onCache f).running = s.running := rfl
@[simp] theorem State.onCache_day (f : Cache → Cache) :
    (s.onCache f).day = s.day := rfl

/-! ## onLink -/

@[simp] theorem State.onLink_recording (f : Link → Link) (r : Nat) :
    (s.onLink f).recording r = s.recording r := rfl
@[simp] theorem State.onLink_box (f : Link → Link) (b : Nat) :
    (s.onLink f).box b = s.box b := rfl
@[simp] theorem State.onLink_entry (f : Link → Link) (e : Nat) :
    (s.onLink f).entry e = s.entry e := rfl
@[simp] theorem State.onLink_members (f : Link → Link) (l : Nat) :
    (s.onLink f).members l = s.members l := rfl
@[simp] theorem State.onLink_port (f : Link → Link) (p : Nat) :
    (s.onLink f).port p = s.port p := rfl
@[simp] theorem State.onLink_lamp (f : Link → Link) (b : Nat) :
    (s.onLink f).lamp b = s.lamp b := rfl
@[simp] theorem State.onLink_shelf (f : Link → Link) (n : Nat) :
    (s.onLink f).shelf n = s.shelf n := rfl
@[simp] theorem State.onLink_running (f : Link → Link) :
    (s.onLink f).running = s.running := rfl
@[simp] theorem State.onLink_day (f : Link → Link) :
    (s.onLink f).day = s.day := rfl

/-! ## onLine -/

@[simp] theorem State.onLine_recording (f : LampLine → LampLine) (r : Nat) :
    (s.onLine f).recording r = s.recording r := rfl
@[simp] theorem State.onLine_box (f : LampLine → LampLine) (b : Nat) :
    (s.onLine f).box b = s.box b := rfl
@[simp] theorem State.onLine_entry (f : LampLine → LampLine) (e : Nat) :
    (s.onLine f).entry e = s.entry e := rfl
@[simp] theorem State.onLine_members (f : LampLine → LampLine) (l : Nat) :
    (s.onLine f).members l = s.members l := rfl
@[simp] theorem State.onLine_port (f : LampLine → LampLine) (p : Nat) :
    (s.onLine f).port p = s.port p := rfl
@[simp] theorem State.onLine_lamp (f : LampLine → LampLine) (b : Nat) :
    (s.onLine f).lamp b = s.lamp b := rfl
@[simp] theorem State.onLine_running (f : LampLine → LampLine) :
    (s.onLine f).running = s.running := rfl
@[simp] theorem State.onLine_day (f : LampLine → LampLine) :
    (s.onLine f).day = s.day := rfl

/-! ## onRetention -/

@[simp] theorem State.onRetention_recording (f : Retention → Retention) (r : Nat) :
    (s.onRetention f).recording r = s.recording r := rfl
@[simp] theorem State.onRetention_box (f : Retention → Retention) (b : Nat) :
    (s.onRetention f).box b = s.box b := rfl
@[simp] theorem State.onRetention_entry (f : Retention → Retention) (e : Nat) :
    (s.onRetention f).entry e = s.entry e := rfl
@[simp] theorem State.onRetention_members (f : Retention → Retention) (l : Nat) :
    (s.onRetention f).members l = s.members l := rfl
@[simp] theorem State.onRetention_port (f : Retention → Retention) (p : Nat) :
    (s.onRetention f).port p = s.port p := rfl
@[simp] theorem State.onRetention_lamp (f : Retention → Retention) (b : Nat) :
    (s.onRetention f).lamp b = s.lamp b := rfl
@[simp] theorem State.onRetention_shelf (f : Retention → Retention) (n : Nat) :
    (s.onRetention f).shelf n = s.shelf n := rfl
@[simp] theorem State.onRetention_running (f : Retention → Retention) :
    (s.onRetention f).running = s.running := rfl

/-! ## onSettings -/

@[simp] theorem State.onSettings_recording (f : Settings → Settings) (r : Nat) :
    (s.onSettings f).recording r = s.recording r := rfl
@[simp] theorem State.onSettings_box (f : Settings → Settings) (b : Nat) :
    (s.onSettings f).box b = s.box b := rfl
@[simp] theorem State.onSettings_entry (f : Settings → Settings) (e : Nat) :
    (s.onSettings f).entry e = s.entry e := rfl
@[simp] theorem State.onSettings_members (f : Settings → Settings) (l : Nat) :
    (s.onSettings f).members l = s.members l := rfl
@[simp] theorem State.onSettings_port (f : Settings → Settings) (p : Nat) :
    (s.onSettings f).port p = s.port p := rfl
@[simp] theorem State.onSettings_lamp (f : Settings → Settings) (b : Nat) :
    (s.onSettings f).lamp b = s.lamp b := rfl
@[simp] theorem State.onSettings_shelf (f : Settings → Settings) (n : Nat) :
    (s.onSettings f).shelf n = s.shelf n := rfl
@[simp] theorem State.onSettings_running (f : Settings → Settings) :
    (s.onSettings f).running = s.running := rfl
@[simp] theorem State.onSettings_day (f : Settings → Settings) :
    (s.onSettings f).day = s.day := rfl

/-! ## setRecording -/

@[simp] theorem State.setRecording_box (k : Nat) (v : Recording) (b : Nat) :
    (s.setRecording k v).box b = s.box b := rfl
@[simp] theorem State.setRecording_entry (k : Nat) (v : Recording) (e : Nat) :
    (s.setRecording k v).entry e = s.entry e := rfl
@[simp] theorem State.setRecording_members (k : Nat) (v : Recording) (l : Nat) :
    (s.setRecording k v).members l = s.members l := rfl
@[simp] theorem State.setRecording_port (k : Nat) (v : Recording) (p : Nat) :
    (s.setRecording k v).port p = s.port p := rfl
@[simp] theorem State.setRecording_lamp (k : Nat) (v : Recording) (b : Nat) :
    (s.setRecording k v).lamp b = s.lamp b := rfl
@[simp] theorem State.setRecording_shelf (k : Nat) (v : Recording) (n : Nat) :
    (s.setRecording k v).shelf n = s.shelf n := rfl
@[simp] theorem State.setRecording_running (k : Nat) (v : Recording) :
    (s.setRecording k v).running = s.running := rfl
@[simp] theorem State.setRecording_day (k : Nat) (v : Recording) :
    (s.setRecording k v).day = s.day := rfl

/-! ## emptyRecording -/

@[simp] theorem State.emptyRecording_box (k : Nat) (b : Nat) :
    (s.emptyRecording k).box b = s.box b := rfl
@[simp] theorem State.emptyRecording_entry (k : Nat) (e : Nat) :
    (s.emptyRecording k).entry e = s.entry e := rfl
@[simp] theorem State.emptyRecording_members (k : Nat) (l : Nat) :
    (s.emptyRecording k).members l = s.members l := rfl
@[simp] theorem State.emptyRecording_port (k : Nat) (p : Nat) :
    (s.emptyRecording k).port p = s.port p := rfl
@[simp] theorem State.emptyRecording_lamp (k : Nat) (b : Nat) :
    (s.emptyRecording k).lamp b = s.lamp b := rfl
@[simp] theorem State.emptyRecording_shelf (k : Nat) (n : Nat) :
    (s.emptyRecording k).shelf n = s.shelf n := rfl
@[simp] theorem State.emptyRecording_running (k : Nat) :
    (s.emptyRecording k).running = s.running := rfl
@[simp] theorem State.emptyRecording_day (k : Nat) :
    (s.emptyRecording k).day = s.day := rfl

/-! ## setBox -/

@[simp] theorem State.setBox_recording (k : Nat) (v : Box) (r : Nat) :
    (s.setBox k v).recording r = s.recording r := rfl
@[simp] theorem State.setBox_entry (k : Nat) (v : Box) (e : Nat) :
    (s.setBox k v).entry e = s.entry e := rfl
@[simp] theorem State.setBox_members (k : Nat) (v : Box) (l : Nat) :
    (s.setBox k v).members l = s.members l := rfl
@[simp] theorem State.setBox_port (k : Nat) (v : Box) (p : Nat) :
    (s.setBox k v).port p = s.port p := rfl
@[simp] theorem State.setBox_lamp (k : Nat) (v : Box) (b : Nat) :
    (s.setBox k v).lamp b = s.lamp b := rfl
@[simp] theorem State.setBox_shelf (k : Nat) (v : Box) (n : Nat) :
    (s.setBox k v).shelf n = s.shelf n := rfl
@[simp] theorem State.setBox_running (k : Nat) (v : Box) :
    (s.setBox k v).running = s.running := rfl
@[simp] theorem State.setBox_day (k : Nat) (v : Box) :
    (s.setBox k v).day = s.day := rfl

/-! ## onBox -/

@[simp] theorem State.onBox_recording (k : Nat) (f : Box → Box) (r : Nat) :
    (s.onBox k f).recording r = s.recording r := rfl
@[simp] theorem State.onBox_entry (k : Nat) (f : Box → Box) (e : Nat) :
    (s.onBox k f).entry e = s.entry e := rfl
@[simp] theorem State.onBox_members (k : Nat) (f : Box → Box) (l : Nat) :
    (s.onBox k f).members l = s.members l := rfl
@[simp] theorem State.onBox_port (k : Nat) (f : Box → Box) (p : Nat) :
    (s.onBox k f).port p = s.port p := rfl
@[simp] theorem State.onBox_lamp (k : Nat) (f : Box → Box) (b : Nat) :
    (s.onBox k f).lamp b = s.lamp b := rfl
@[simp] theorem State.onBox_shelf (k : Nat) (f : Box → Box) (n : Nat) :
    (s.onBox k f).shelf n = s.shelf n := rfl
@[simp] theorem State.onBox_running (k : Nat) (f : Box → Box) :
    (s.onBox k f).running = s.running := rfl
@[simp] theorem State.onBox_day (k : Nat) (f : Box → Box) :
    (s.onBox k f).day = s.day := rfl

/-! ## setEntry -/

@[simp] theorem State.setEntry_recording (k : Nat) (v : Entry) (r : Nat) :
    (s.setEntry k v).recording r = s.recording r := rfl
@[simp] theorem State.setEntry_box (k : Nat) (v : Entry) (b : Nat) :
    (s.setEntry k v).box b = s.box b := rfl
@[simp] theorem State.setEntry_members (k : Nat) (v : Entry) (l : Nat) :
    (s.setEntry k v).members l = s.members l := rfl
@[simp] theorem State.setEntry_port (k : Nat) (v : Entry) (p : Nat) :
    (s.setEntry k v).port p = s.port p := rfl
@[simp] theorem State.setEntry_lamp (k : Nat) (v : Entry) (b : Nat) :
    (s.setEntry k v).lamp b = s.lamp b := rfl
@[simp] theorem State.setEntry_shelf (k : Nat) (v : Entry) (n : Nat) :
    (s.setEntry k v).shelf n = s.shelf n := rfl
@[simp] theorem State.setEntry_running (k : Nat) (v : Entry) :
    (s.setEntry k v).running = s.running := rfl
@[simp] theorem State.setEntry_day (k : Nat) (v : Entry) :
    (s.setEntry k v).day = s.day := rfl

/-! ## freeEntry -/

@[simp] theorem State.freeEntry_recording (k : Nat) (r : Nat) :
    (s.freeEntry k).recording r = s.recording r := rfl
@[simp] theorem State.freeEntry_box (k : Nat) (b : Nat) :
    (s.freeEntry k).box b = s.box b := rfl
@[simp] theorem State.freeEntry_members (k : Nat) (l : Nat) :
    (s.freeEntry k).members l = s.members l := rfl
@[simp] theorem State.freeEntry_port (k : Nat) (p : Nat) :
    (s.freeEntry k).port p = s.port p := rfl
@[simp] theorem State.freeEntry_lamp (k : Nat) (b : Nat) :
    (s.freeEntry k).lamp b = s.lamp b := rfl
@[simp] theorem State.freeEntry_shelf (k : Nat) (n : Nat) :
    (s.freeEntry k).shelf n = s.shelf n := rfl
@[simp] theorem State.freeEntry_running (k : Nat) :
    (s.freeEntry k).running = s.running := rfl
@[simp] theorem State.freeEntry_day (k : Nat) :
    (s.freeEntry k).day = s.day := rfl

/-! ## setMembers -/

@[simp] theorem State.setMembers_recording (k : Nat) (ms : List Nat) (r : Nat) :
    (s.setMembers k ms).recording r = s.recording r := rfl
@[simp] theorem State.setMembers_box (k : Nat) (ms : List Nat) (b : Nat) :
    (s.setMembers k ms).box b = s.box b := rfl
@[simp] theorem State.setMembers_entry (k : Nat) (ms : List Nat) (e : Nat) :
    (s.setMembers k ms).entry e = s.entry e := rfl
@[simp] theorem State.setMembers_port (k : Nat) (ms : List Nat) (p : Nat) :
    (s.setMembers k ms).port p = s.port p := rfl
@[simp] theorem State.setMembers_lamp (k : Nat) (ms : List Nat) (b : Nat) :
    (s.setMembers k ms).lamp b = s.lamp b := rfl
@[simp] theorem State.setMembers_shelf (k : Nat) (ms : List Nat) (n : Nat) :
    (s.setMembers k ms).shelf n = s.shelf n := rfl
@[simp] theorem State.setMembers_running (k : Nat) (ms : List Nat) :
    (s.setMembers k ms).running = s.running := rfl
@[simp] theorem State.setMembers_day (k : Nat) (ms : List Nat) :
    (s.setMembers k ms).day = s.day := rfl

/-! ## setBlock -/

@[simp] theorem State.setBlock_recording (k : Nat) (v : BlockStatus) (r : Nat) :
    (s.setBlock k v).recording r = s.recording r := rfl
@[simp] theorem State.setBlock_box (k : Nat) (v : BlockStatus) (b : Nat) :
    (s.setBlock k v).box b = s.box b := rfl
@[simp] theorem State.setBlock_entry (k : Nat) (v : BlockStatus) (e : Nat) :
    (s.setBlock k v).entry e = s.entry e := rfl
@[simp] theorem State.setBlock_members (k : Nat) (v : BlockStatus) (l : Nat) :
    (s.setBlock k v).members l = s.members l := rfl
@[simp] theorem State.setBlock_port (k : Nat) (v : BlockStatus) (p : Nat) :
    (s.setBlock k v).port p = s.port p := rfl
@[simp] theorem State.setBlock_lamp (k : Nat) (v : BlockStatus) (b : Nat) :
    (s.setBlock k v).lamp b = s.lamp b := rfl
@[simp] theorem State.setBlock_shelf (k : Nat) (v : BlockStatus) (n : Nat) :
    (s.setBlock k v).shelf n = s.shelf n := rfl
@[simp] theorem State.setBlock_running (k : Nat) (v : BlockStatus) :
    (s.setBlock k v).running = s.running := rfl
@[simp] theorem State.setBlock_day (k : Nat) (v : BlockStatus) :
    (s.setBlock k v).day = s.day := rfl

/-! ## setPort -/

@[simp] theorem State.setPort_recording (k : Nat) (v : Port) (r : Nat) :
    (s.setPort k v).recording r = s.recording r := rfl
@[simp] theorem State.setPort_box (k : Nat) (v : Port) (b : Nat) :
    (s.setPort k v).box b = s.box b := rfl
@[simp] theorem State.setPort_entry (k : Nat) (v : Port) (e : Nat) :
    (s.setPort k v).entry e = s.entry e := rfl
@[simp] theorem State.setPort_members (k : Nat) (v : Port) (l : Nat) :
    (s.setPort k v).members l = s.members l := rfl
@[simp] theorem State.setPort_lamp (k : Nat) (v : Port) (b : Nat) :
    (s.setPort k v).lamp b = s.lamp b := rfl
@[simp] theorem State.setPort_shelf (k : Nat) (v : Port) (n : Nat) :
    (s.setPort k v).shelf n = s.shelf n := rfl
@[simp] theorem State.setPort_running (k : Nat) (v : Port) :
    (s.setPort k v).running = s.running := rfl
@[simp] theorem State.setPort_day (k : Nat) (v : Port) :
    (s.setPort k v).day = s.day := rfl

/-! ## onPort -/

@[simp] theorem State.onPort_recording (k : Nat) (f : Port → Port) (r : Nat) :
    (s.onPort k f).recording r = s.recording r := rfl
@[simp] theorem State.onPort_box (k : Nat) (f : Port → Port) (b : Nat) :
    (s.onPort k f).box b = s.box b := rfl
@[simp] theorem State.onPort_entry (k : Nat) (f : Port → Port) (e : Nat) :
    (s.onPort k f).entry e = s.entry e := rfl
@[simp] theorem State.onPort_members (k : Nat) (f : Port → Port) (l : Nat) :
    (s.onPort k f).members l = s.members l := rfl
@[simp] theorem State.onPort_lamp (k : Nat) (f : Port → Port) (b : Nat) :
    (s.onPort k f).lamp b = s.lamp b := rfl
@[simp] theorem State.onPort_shelf (k : Nat) (f : Port → Port) (n : Nat) :
    (s.onPort k f).shelf n = s.shelf n := rfl
@[simp] theorem State.onPort_running (k : Nat) (f : Port → Port) :
    (s.onPort k f).running = s.running := rfl
@[simp] theorem State.onPort_day (k : Nat) (f : Port → Port) :
    (s.onPort k f).day = s.day := rfl

/-! ## setLamp -/

@[simp] theorem State.setLamp_recording (k : Nat) (v : Lamp) (r : Nat) :
    (s.setLamp k v).recording r = s.recording r := rfl
@[simp] theorem State.setLamp_box (k : Nat) (v : Lamp) (b : Nat) :
    (s.setLamp k v).box b = s.box b := rfl
@[simp] theorem State.setLamp_entry (k : Nat) (v : Lamp) (e : Nat) :
    (s.setLamp k v).entry e = s.entry e := rfl
@[simp] theorem State.setLamp_members (k : Nat) (v : Lamp) (l : Nat) :
    (s.setLamp k v).members l = s.members l := rfl
@[simp] theorem State.setLamp_port (k : Nat) (v : Lamp) (p : Nat) :
    (s.setLamp k v).port p = s.port p := rfl
@[simp] theorem State.setLamp_shelf (k : Nat) (v : Lamp) (n : Nat) :
    (s.setLamp k v).shelf n = s.shelf n := rfl
@[simp] theorem State.setLamp_running (k : Nat) (v : Lamp) :
    (s.setLamp k v).running = s.running := rfl
@[simp] theorem State.setLamp_day (k : Nat) (v : Lamp) :
    (s.setLamp k v).day = s.day := rfl

/-! ## onLamp -/

@[simp] theorem State.onLamp_recording (k : Nat) (f : Lamp → Lamp) (r : Nat) :
    (s.onLamp k f).recording r = s.recording r := rfl
@[simp] theorem State.onLamp_box (k : Nat) (f : Lamp → Lamp) (b : Nat) :
    (s.onLamp k f).box b = s.box b := rfl
@[simp] theorem State.onLamp_entry (k : Nat) (f : Lamp → Lamp) (e : Nat) :
    (s.onLamp k f).entry e = s.entry e := rfl
@[simp] theorem State.onLamp_members (k : Nat) (f : Lamp → Lamp) (l : Nat) :
    (s.onLamp k f).members l = s.members l := rfl
@[simp] theorem State.onLamp_port (k : Nat) (f : Lamp → Lamp) (p : Nat) :
    (s.onLamp k f).port p = s.port p := rfl
@[simp] theorem State.onLamp_shelf (k : Nat) (f : Lamp → Lamp) (n : Nat) :
    (s.onLamp k f).shelf n = s.shelf n := rfl
@[simp] theorem State.onLamp_running (k : Nat) (f : Lamp → Lamp) :
    (s.onLamp k f).running = s.running := rfl
@[simp] theorem State.onLamp_day (k : Nat) (f : Lamp → Lamp) :
    (s.onLamp k f).day = s.day := rfl

/-! ## onShelf -/

@[simp] theorem State.onShelf_recording (k : Nat) (f : Shelf → Shelf) (r : Nat) :
    (s.onShelf k f).recording r = s.recording r := rfl
@[simp] theorem State.onShelf_box (k : Nat) (f : Shelf → Shelf) (b : Nat) :
    (s.onShelf k f).box b = s.box b := rfl
@[simp] theorem State.onShelf_entry (k : Nat) (f : Shelf → Shelf) (e : Nat) :
    (s.onShelf k f).entry e = s.entry e := rfl
@[simp] theorem State.onShelf_members (k : Nat) (f : Shelf → Shelf) (l : Nat) :
    (s.onShelf k f).members l = s.members l := rfl
@[simp] theorem State.onShelf_port (k : Nat) (f : Shelf → Shelf) (p : Nat) :
    (s.onShelf k f).port p = s.port p := rfl
@[simp] theorem State.onShelf_lamp (k : Nat) (f : Shelf → Shelf) (b : Nat) :
    (s.onShelf k f).lamp b = s.lamp b := rfl
@[simp] theorem State.onShelf_running (k : Nat) (f : Shelf → Shelf) :
    (s.onShelf k f).running = s.running := rfl
@[simp] theorem State.onShelf_day (k : Nat) (f : Shelf → Shelf) :
    (s.onShelf k f).day = s.day := rfl

/-! ## onLampQueue -/

@[simp] theorem State.onLampQueue_recording (f : List Nat → List Nat) (r : Nat) :
    (s.onLampQueue f).recording r = s.recording r := rfl
@[simp] theorem State.onLampQueue_box (f : List Nat → List Nat) (b : Nat) :
    (s.onLampQueue f).box b = s.box b := rfl
@[simp] theorem State.onLampQueue_entry (f : List Nat → List Nat) (e : Nat) :
    (s.onLampQueue f).entry e = s.entry e := rfl
@[simp] theorem State.onLampQueue_members (f : List Nat → List Nat) (l : Nat) :
    (s.onLampQueue f).members l = s.members l := rfl
@[simp] theorem State.onLampQueue_port (f : List Nat → List Nat) (p : Nat) :
    (s.onLampQueue f).port p = s.port p := rfl
@[simp] theorem State.onLampQueue_lamp (f : List Nat → List Nat) (b : Nat) :
    (s.onLampQueue f).lamp b = s.lamp b := rfl
@[simp] theorem State.onLampQueue_shelf (f : List Nat → List Nat) (n : Nat) :
    (s.onLampQueue f).shelf n = s.shelf n := rfl
@[simp] theorem State.onLampQueue_running (f : List Nat → List Nat) :
    (s.onLampQueue f).running = s.running := rfl
@[simp] theorem State.onLampQueue_day (f : List Nat → List Nat) :
    (s.onLampQueue f).day = s.day := rfl

/-! ## onJobs -/

@[simp] theorem State.onJobs_recording (f : List Job → List Job) (r : Nat) :
    (s.onJobs f).recording r = s.recording r := rfl
@[simp] theorem State.onJobs_box (f : List Job → List Job) (b : Nat) :
    (s.onJobs f).box b = s.box b := rfl
@[simp] theorem State.onJobs_entry (f : List Job → List Job) (e : Nat) :
    (s.onJobs f).entry e = s.entry e := rfl
@[simp] theorem State.onJobs_members (f : List Job → List Job) (l : Nat) :
    (s.onJobs f).members l = s.members l := rfl
@[simp] theorem State.onJobs_port (f : List Job → List Job) (p : Nat) :
    (s.onJobs f).port p = s.port p := rfl
@[simp] theorem State.onJobs_lamp (f : List Job → List Job) (b : Nat) :
    (s.onJobs f).lamp b = s.lamp b := rfl
@[simp] theorem State.onJobs_shelf (f : List Job → List Job) (n : Nat) :
    (s.onJobs f).shelf n = s.shelf n := rfl
@[simp] theorem State.onJobs_running (f : List Job → List Job) :
    (s.onJobs f).running = s.running := rfl
@[simp] theorem State.onJobs_day (f : List Job → List Job) :
    (s.onJobs f).day = s.day := rfl

/-! ## raise -/

@[simp] theorem State.raise_recording (k : NoticeKind) (fs : List Field) (r : Nat) :
    (s.raise k fs).recording r = s.recording r := rfl
@[simp] theorem State.raise_box (k : NoticeKind) (fs : List Field) (b : Nat) :
    (s.raise k fs).box b = s.box b := rfl
@[simp] theorem State.raise_entry (k : NoticeKind) (fs : List Field) (e : Nat) :
    (s.raise k fs).entry e = s.entry e := rfl
@[simp] theorem State.raise_members (k : NoticeKind) (fs : List Field) (l : Nat) :
    (s.raise k fs).members l = s.members l := rfl
@[simp] theorem State.raise_port (k : NoticeKind) (fs : List Field) (p : Nat) :
    (s.raise k fs).port p = s.port p := rfl
@[simp] theorem State.raise_lamp (k : NoticeKind) (fs : List Field) (b : Nat) :
    (s.raise k fs).lamp b = s.lamp b := rfl
@[simp] theorem State.raise_shelf (k : NoticeKind) (fs : List Field) (n : Nat) :
    (s.raise k fs).shelf n = s.shelf n := rfl
@[simp] theorem State.raise_running (k : NoticeKind) (fs : List Field) :
    (s.raise k fs).running = s.running := rfl
@[simp] theorem State.raise_day (k : NoticeKind) (fs : List Field) :
    (s.raise k fs).day = s.day := rfl

/-! ## answered -/

@[simp] theorem State.answered_recording (k t : Nat) (fs : List Field) (r : Nat) :
    (s.answered k t fs).recording r = s.recording r := rfl
@[simp] theorem State.answered_box (k t : Nat) (fs : List Field) (b : Nat) :
    (s.answered k t fs).box b = s.box b := rfl
@[simp] theorem State.answered_entry (k t : Nat) (fs : List Field) (e : Nat) :
    (s.answered k t fs).entry e = s.entry e := rfl
@[simp] theorem State.answered_members (k t : Nat) (fs : List Field) (l : Nat) :
    (s.answered k t fs).members l = s.members l := rfl
@[simp] theorem State.answered_port (k t : Nat) (fs : List Field) (p : Nat) :
    (s.answered k t fs).port p = s.port p := rfl
@[simp] theorem State.answered_lamp (k t : Nat) (fs : List Field) (b : Nat) :
    (s.answered k t fs).lamp b = s.lamp b := rfl
@[simp] theorem State.answered_shelf (k t : Nat) (fs : List Field) (n : Nat) :
    (s.answered k t fs).shelf n = s.shelf n := rfl
@[simp] theorem State.answered_running (k t : Nat) (fs : List Field) :
    (s.answered k t fs).running = s.running := rfl
@[simp] theorem State.answered_day (k t : Nat) (fs : List Field) :
    (s.answered k t fs).day = s.day := rfl

/-! ## refusedWith -/

@[simp] theorem State.refusedWith_recording (k t : Nat) (r : Reason) (d : Nat) (m : Nat) :
    (s.refusedWith k t r d).recording m = s.recording m := rfl
@[simp] theorem State.refusedWith_box (k t : Nat) (r : Reason) (d : Nat) (b : Nat) :
    (s.refusedWith k t r d).box b = s.box b := rfl
@[simp] theorem State.refusedWith_entry (k t : Nat) (r : Reason) (d : Nat) (e : Nat) :
    (s.refusedWith k t r d).entry e = s.entry e := rfl
@[simp] theorem State.refusedWith_members (k t : Nat) (r : Reason) (d : Nat) (l : Nat) :
    (s.refusedWith k t r d).members l = s.members l := rfl
@[simp] theorem State.refusedWith_port (k t : Nat) (r : Reason) (d : Nat) (p : Nat) :
    (s.refusedWith k t r d).port p = s.port p := rfl
@[simp] theorem State.refusedWith_lamp (k t : Nat) (r : Reason) (d : Nat) (b : Nat) :
    (s.refusedWith k t r d).lamp b = s.lamp b := rfl
@[simp] theorem State.refusedWith_shelf (k t : Nat) (r : Reason) (d : Nat) (n : Nat) :
    (s.refusedWith k t r d).shelf n = s.shelf n := rfl
@[simp] theorem State.refusedWith_running (k t : Nat) (r : Reason) (d : Nat) :
    (s.refusedWith k t r d).running = s.running := rfl
@[simp] theorem State.refusedWith_day (k t : Nat) (r : Reason) (d : Nat) :
    (s.refusedWith k t r d).day = s.day := rfl

end Sys2Proof.Machine
end

