-- ==== Sys2Proof/Laws/Effects.lean ====
section
/-! SUPPORT. What an operation leaves, said exactly where `Moves` says only which parts change: the
notices that freeing blocks can raise, the parts that a recompute or a touch can write, and the start
of a play level. -/

namespace Sys2Proof.Machine

/-! ## The notices that freeing blocks can raise -/

/-- The free count is the number of blocks that the pool holds. -/
theorem Pool.size_eq (p : Pool) : p.size = p.blocks.length := by
  have h (rs : List Run) : runsSize rs = (rs.flatMap Run.blocks).length := by
    induction rs with
    | nil => rfl
    | cons r rest ih => simp [runsSize, Run.blocks, ih]
  exact h p.runs

theorem Pool.append_size (p : Pool) (b : Nat) : (p.append b).size = p.size + 1 := by
  simp [Pool.size_eq, Pool.append_blocks]

theorem Pool.take_size {p q : Pool} {b : Nat} (h : p.take = some (b, q)) : p.size = q.size + 1 := by
  simp [Pool.size_eq, Pool.take_blocks h]

@[simp] theorem countsTo_self (a : Nat) : countsTo a a = [] := by simp [countsTo]

@[simp] theorem countsTo_up (a : Nat) : countsTo a (a + 1) = [a + 1] := by simp [countsTo]

@[simp] theorem countsTo_down (a : Nat) : countsTo (a + 1) a = [a] := by simp [countsTo]

/-- Rising counts, taken in two parts. -/
theorem countsTo_append {a b c : Nat} (h : a ≤ b) (g : b ≤ c) :
    countsTo a b ++ countsTo b c = countsTo a c := by
  obtain ⟨m, rfl⟩ := Nat.exists_eq_add_of_le h
  obtain ⟨n, rfl⟩ := Nat.exists_eq_add_of_le g
  have e : a + m + n - (a + m) = n := by omega
  have e' : a + m + n - a = m + n := by omega
  have e'' : a + m + 1 = a + 1 + m := by omega
  simp only [countsTo, e, e', e'', Nat.sub_eq_zero_of_le h, Nat.sub_eq_zero_of_le g,
    Nat.sub_eq_zero_of_le (h.trans g), Nat.add_sub_cancel_left, List.range'_zero,
    List.reverse_nil, List.append_nil, List.range'_append_1]

/-- What freeing blocks does to the link and the pool: `t` comes from `s` by blocks appended to the
pool, each with its evaluation of the pool level (R2, R73). -/
structure State.PoolsTo (s t : State) : Prop where
  notices : s.poolNotices t t.link
  grows : s.dir.pool.size ≤ t.dir.pool.size
  running : t.running = s.running

theorem State.PoolsTo.refl (s : State) : s.PoolsTo s :=
  ⟨by simp [State.poolNotices], Nat.le_refl _, rfl⟩

theorem State.PoolsTo.trans {s t u : State} (h : s.PoolsTo t) (g : t.PoolsTo u) : s.PoolsTo u := by
  refine ⟨?_, h.grows.trans g.grows, g.running.trans h.running⟩
  have a := h.notices
  have b := g.notices
  unfold State.poolNotices at *
  rw [h.running] at b
  split at a
  · next e =>
    rw [if_pos e] at b ⊢
    rw [← countsTo_append h.grows g.grows, List.foldl_append, ← a, b]
  · next e => rw [if_neg e] at b ⊢; rw [b, a]

/-- A change that keeps the link, the pool, its level and the module's state. -/
theorem State.PoolsTo.of_eq {s t : State} (hl : t.link = s.link) (hp : t.dir.pool = s.dir.pool)
    (hv : t.dir.poolLevel = s.dir.poolLevel) (hm : t.module = s.module) : s.PoolsTo t := by
  refine ⟨?_, by rw [hp], by unfold State.running; rw [hm]⟩
  unfold State.poolNotices
  rw [hl, hp, hv, countsTo_self]
  split <;> rfl

/-- One evaluation of the pool level (R73). -/
theorem State.evalLevel_eq (s : State) :
    (s.evalLevel.link, s.evalLevel.dir.poolLevel) =
      (if s.running = true then evalPool (s.link, s.dir.poolLevel) s.dir.pool.size
       else (s.link, s.dir.poolLevel)) ∧
    s.evalLevel.dir.pool = s.dir.pool ∧ s.evalLevel.running = s.running := by
  unfold State.evalLevel evalPool
  dsimp only
  by_cases h : s.running = true
  · by_cases g : s.dir.poolLevel.step s.dir.pool.size = s.dir.poolLevel
    · rw [if_neg (fun c => c.2 g), if_pos h, if_pos g]
      exact ⟨rfl, rfl, rfl⟩
    · rw [if_pos ⟨h, g⟩, if_pos h, if_neg g]
      exact ⟨rfl, rfl, rfl⟩
  · rw [if_neg (fun c => h c.1), if_neg h]
    exact ⟨rfl, rfl, rfl⟩

theorem State.appendFree_poolsTo (s : State) (b : Nat) : s.PoolsTo (s.appendFree b) := by
  unfold State.appendFree
  obtain ⟨h1, h2, h3⟩ := State.evalLevel_eq
    (s.onDir fun d => { d.clearBlock b with pool := d.pool.append b })
  refine ⟨?_, ?_, h3⟩
  · unfold State.poolNotices
    rw [h1, h2]
    simp [State.onDir, Directory.clearBlock, Pool.append_size, State.running]
  · rw [h2]; simp [State.onDir, Pool.append_size]

/-- The block at the pool head is taken, with the evaluation of the pool level (R2, R73). -/
theorem State.takeBlock_notices {s t : State} {b : Nat} (h : s.takeBlock = some (b, t)) :
    s.poolNotices t t.link := by
  unfold State.takeBlock at h
  split at h
  · cases h
  · next c pool e =>
    cases h
    obtain ⟨h1, h2, -⟩ := State.evalLevel_eq (s.onDir fun d => { d with pool := pool })
    unfold State.poolNotices
    rw [h1, h2]
    simp [State.onDir, Pool.take_size e, State.running]

theorem State.freeBlock_poolsTo (s : State) (b : Nat) : s.PoolsTo (s.freeBlock b) := by
  unfold State.freeBlock
  split
  · exact .of_eq rfl rfl rfl rfl
  · next c _ =>
    exact (State.PoolsTo.of_eq (s := s) (t := { s with cache := c }) rfl rfl rfl rfl).trans
      (State.appendFree_poolsTo _ _)

theorem State.PoolsTo.foldl {f : State → Nat → State} (h : ∀ (s : State) (b : Nat), s.PoolsTo (f s b))
    (bs : List Nat) (s : State) : s.PoolsTo (bs.foldl f s) := by
  induction bs generalizing s with
  | nil => exact .refl s
  | cons b bs ih => exact (h s b).trans (ih _)

theorem State.freeBlocks_poolsTo (s : State) (bs : List Nat) : s.PoolsTo (s.freeBlocks bs) :=
  .foldl State.freeBlock_poolsTo bs s

theorem State.freeRecording_poolsTo (s : State) (r : Nat) : s.PoolsTo (s.freeRecording r) := by
  unfold State.freeRecording
  split
  · exact .refl s
  · exact (State.freeBlocks_poolsTo _ _).trans (.of_eq rfl rfl rfl rfl)

theorem State.releaseRef_poolsTo (s : State) (r : Nat) : s.PoolsTo (s.releaseRef r) := by
  unfold State.releaseRef
  split
  · exact .refl s
  · next v _ =>
    dsimp only
    have h : s.PoolsTo (s.setRecording r { v with references := v.references - 1 }) :=
      .of_eq rfl rfl rfl rfl
    split
    · exact h.trans (State.freeRecording_poolsTo _ _)
    · exact h

theorem State.releaseRefs_poolsTo (s : State) (rs : List Nat) : s.PoolsTo (s.releaseRefs rs) :=
  .foldl State.releaseRef_poolsTo rs s

/-! ## Exact parts of a change -/

/-- The parts that freeing a recording may change. -/
def storeParts : Parts := ⟨true, false, false, false, false, true, false, false, false⟩

/-- A change of the store and the cache alone leaves the rest of the directory and of the module. -/
theorem Moves.store_frame {s t : State} (h : Moves storeParts s t) :
    { t.dir with
      blocks := s.dir.blocks, pool := s.dir.pool, poolLevel := s.dir.poolLevel,
      recordings := s.dir.recordings } = s.dir ∧
    { t with dir := s.dir, cache := s.cache, link := s.link } = s := by
  obtain ⟨h1, h2, h3, h4, h5, h6, h7, h8, h9, h10, h11, h12, h13, h14, h15, h16, h17, -⟩ := h.toChanges
  simp only [storeParts, false_or, Bool.false_eq_true] at *
  obtain ⟨a1, a2⟩ := h9
  obtain ⟨b1, b2⟩ := h10
  obtain ⟨c1, c2, c3⟩ := h16
  constructor
  · cases hd : t.dir
    cases hs : s.dir
    simp_all
  · cases t
    cases s
    simp_all

theorem State.sendOrder_link (s : State) (b : Nat) (p : Bool) : (s.sendOrder b p).link = s.link := by
  unfold State.sendOrder
  split <;> rfl

theorem State.downNext_link (s : State) : s.downNext.link = s.link := by
  unfold State.downNext
  repeat' (first | rfl | exact State.sendOrder_link _ _ _ | split)

theorem State.settleExpires_link (s : State) (b : Nat) : (s.settleExpires b).link = s.link := by
  unfold State.settleExpires
  split <;> rfl

theorem State.startSettle_link (s : State) (b : Nat) : (s.startSettle b).link = s.link := by
  unfold State.startSettle
  dsimp only
  split
  · rw [State.settleExpires_link]; rfl
  · rfl

theorem State.recompute_link (s : State) (b : Nat) : (s.recompute b).link = s.link := by
  unfold State.recompute
  dsimp only
  split
  · rfl
  · split
    · rfl
    · split
      · rw [State.downNext_link, State.startSettle_link]; rfl
      · rw [State.downNext_link, State.startSettle_link]; rfl
      · rfl
      · split
        · rw [State.downNext_link]; rfl
        · rfl
      · rfl

/-- A recompute writes lamps, their queue and the line, and nothing else. -/
theorem State.recompute_eq (s : State) (b : Nat) :
    ∃ la lq li, s.recompute b = { s with lamps := la, lampQueue := lq, line := li } := by
  have m : Moves { storeParts with store := false, cache := false, lamps := true } s
    (s.recompute b) := State.recompute_moves rfl s b
  have hl := State.recompute_link s b
  obtain ⟨h1, h2, h3, h4, h5, h6, h7, h8, h9, h10, h11, h12, h13, h14, h15, h16, h17, -⟩ := m.toChanges
  simp only [storeParts, false_or, Bool.false_eq_true] at *
  obtain ⟨a1, a2, a3, a4⟩ := h8
  obtain ⟨b1, b2⟩ := h9
  obtain ⟨c1, c2⟩ := h10
  refine ⟨(s.recompute b).lamps, (s.recompute b).lampQueue, (s.recompute b).line, ?_⟩
  have hd : (s.recompute b).dir = s.dir := by
    cases hd : (s.recompute b).dir
    cases hs : s.dir
    simp_all
  cases ht : s.recompute b
  cases s
  simp_all

/-- Touches write the cache and nothing else. -/
theorem State.touchAll_eq (s : State) (p : Nat) (bs : List Nat) :
    ∃ c, s.touchAll p bs = { s with cache := c } := by
  unfold State.touchAll
  induction bs generalizing s with
  | nil => exact ⟨_, rfl⟩
  | cons b bs ih =>
    obtain ⟨c, h⟩ := ih (s.touchFor p b)
    exact ⟨c, by rw [List.foldl_cons, h]; rfl⟩

/-- A renewed lookahead writes the port's lookahead and the cache. -/
theorem State.renewLookahead_eq (s : State) (p : Nat) : ∃ c, s.renewLookahead p =
    { (s.onPort p fun q => { q with lookahead := s.lookaheadOf p }) with cache := c } := by
  unfold State.renewLookahead
  exact State.touchAll_eq _ _ _

/-! ## The start of a play level -/

/-- A level that starts: the port plays it from its first frame, and only the cache changes beside. -/
theorem State.startLevel_eq (s : State) (p : Nat) (l : Level) : ∃ la c,
    (s.startLevel p l).port p = { s.port p with
      level := some l, playout := [], next := l.frameAt l.index l.position, lookahead := la,
      fadeIn := some 1 } ∧
    (∀ q, q ≠ p → (s.startLevel p l).port q = s.port q) ∧
    s.startLevel p l = { s with cache := c, ports := (s.startLevel p l).ports } := by
  unfold State.startLevel
  dsimp only
  set u := s.onPort p fun q =>
    { q with level := some l, playout := [], next := l.frameAt l.index l.position, lookahead := [],
             fadeIn := some 1 } with hu
  obtain ⟨c, h⟩ := State.renewLookahead_eq u p
  refine ⟨u.lookaheadOf p, c, ?_, ?_, ?_⟩
  · rw [h]
    change (u.onPort p fun q => { q with lookahead := u.lookaheadOf p }).port p = _
    rw [State.port_onPort, hu, State.port_onPort]
  · intro q hq
    rw [h]
    change (u.onPort p fun q => { q with lookahead := u.lookaheadOf p }).port q = _
    rw [State.port_onPort_other _ _ hq, hu, State.port_onPort_other _ _ hq]
  · rw [h]; rfl

/-- A port whose current segment has frames left plays on: its operation takes the phase of the
segment. -/
theorem State.playOn_eq (s : State) (p : Nat) (l : Level) (g : Segment) (rest : List Segment)
    (h : (s.port p).level = some l) (hl : l.segments = g :: rest) (hg : l.position < g.stop) :
    s.playOn p = s.onOp p fun o => { o with phase := phaseFor g o.phase } := by
  unfold State.playOn advanceRounds State.advance
  simp only [h, hl]
  rw [if_neg (by omega)]

theorem State.addRef_recording (s : State) (a r : Nat) : (s.addRef a).recording r =
    (s.recording r).map fun v => { v with references := v.references + if r = a then 1 else 0 } := by
  unfold State.addRef State.onRecording
  cases h : s.recording a with
  | none =>
    by_cases e : r = a
    · subst e; simp [h]
    · simp [e]
  | some v =>
    by_cases e : r = a
    · subst e; simp [h]
    · simp only [if_neg e, Nat.add_zero]
      rw [State.recording_setRecording_other _ _ e]; simp

/-- The holds of a list: each recording's references rise by the number of segments that play it. -/
theorem State.takeHolds_recording (s : State) (gs : List Segment) (r : Nat) :
    (s.takeHolds gs).recording r = (s.recording r).map fun v =>
      { v with references := v.references + (holdsOf gs).count r } := by
  unfold State.takeHolds
  induction holdsOf gs generalizing s with
  | nil => simp
  | cons a as ih =>
    rw [List.foldl_cons, ih, State.addRef_recording]
    simp only [Option.map_map, Function.comp_def, List.count_cons, beq_iff_eq]
    congr 1; funext v; congr 1
    by_cases e : r = a
    · subst e; simp; omega
    · simp [e, Ne.symm e]

/-- The holds of a list change the recordings and nothing else. -/
theorem State.takeHolds_eq (s : State) (gs : List Segment) :
    ∃ rs, s.takeHolds gs = { s with dir := { s.dir with recordings := rs } } := by
  unfold State.takeHolds
  induction holdsOf gs generalizing s with
  | nil => exact ⟨s.dir.recordings, rfl⟩
  | cons a as ih =>
    obtain ⟨rs, h⟩ := ih (s.addRef a)
    rw [List.foldl_cons, h]
    refine ⟨rs, ?_⟩
    unfold State.addRef State.onRecording
    split <;> rfl

/-- A play list starts on port `p`: what PLAY, INTERJECT, ANSWER and RECORD have in common. -/
theorem State.beginList_eq (s : State) (p : Nat) (g : Segment) (rest : List Segment)
    (hg : g.start < g.stop) (f : Port → Port) :
    let t := ((((s.takeHolds (g :: rest)).onPort p f).startLevel p (Level.of (g :: rest))).playOn p)
    t.port p = { f (s.port p) with
      op := (f (s.port p)).op.map (fun o => { o with phase := phaseFor g o.phase })
      level := some ⟨1, g :: rest, g.start⟩, playout := [], next := some (1, g.start)
      lookahead := (t.port p).lookahead, fadeIn := some 1 } ∧
    (∀ q, q ≠ p → t.port q = s.port q) ∧
    (∀ r, t.recording r = (s.recording r).map fun v =>
      { v with references := v.references + (holdsOf (g :: rest)).count r }) ∧
    { t.dir with recordings := s.dir.recordings } = s.dir ∧
    { t with dir := s.dir, cache := s.cache, ports := s.ports } = s := by
  intro t
  obtain ⟨rs, h1⟩ := State.takeHolds_eq s (g :: rest)
  set u := (s.takeHolds (g :: rest)).onPort p f with hu
  have hup : u.port p = f (s.port p) := by rw [hu, State.port_onPort, h1]; rfl
  have huq : ∀ q, q ≠ p → u.port q = s.port q := by
    intro q hq; rw [hu, State.port_onPort_other _ _ hq, h1]; rfl
  obtain ⟨la, c, h2, h3, h4⟩ := State.startLevel_eq u p (Level.of (g :: rest))
  set w := u.startLevel p (Level.of (g :: rest)) with hw
  have ht : t = w.onOp p fun o => { o with phase := phaseFor g o.phase } :=
    State.playOn_eq w p ⟨1, g :: rest, g.start⟩ g rest (by rw [h2]; rfl) rfl hg
  have hnext : (Level.of (g :: rest)).frameAt (Level.of (g :: rest)).index
      (Level.of (g :: rest)).position = some (1, g.start) := by
    simp [Level.of, Level.frameAt, Level.from, hg]
  have htp : t.port p = { f (s.port p) with
      op := (f (s.port p)).op.map (fun o => { o with phase := phaseFor g o.phase })
      level := some ⟨1, g :: rest, g.start⟩, playout := [], next := some (1, g.start)
      lookahead := la, fadeIn := some 1 } := by
    rw [ht, State.onOp, State.port_onPort, h2, hup, hnext]; rfl
  refine ⟨?_, ?_, ?_, ?_, ?_⟩
  · rw [htp]
  · intro q hq
    rw [ht, State.onOp, State.port_onPort_other _ _ hq, h3 q hq, huq q hq]
  · intro r
    have : t.recording r = (s.takeHolds (g :: rest)).recording r := by
      rw [ht, State.onOp, h4]; rfl
    rw [this, State.takeHolds_recording]
  · rw [ht, State.onOp, h4, hu, h1]; rfl
  · rw [ht, State.onOp, h4, hu, h1]; rfl

end Sys2Proof.Machine
end

