-- ==== Sys2Proof/Laws/MovesRequests.lean ====
section
/-! SUPPORT. What each request can do to the module beside its reply, one lemma a request. RESTART and
FORMAT, which leave RUNNING, and STATUS, NOTICE MASK and CLOCK SET, which write the link and the clock,
are not among them. -/

namespace Sys2Proof.Machine

variable {P : Parts}

/-! ## Tests -/

/-- What a test that passes gives has the property `p`. -/
def gives {α : Type} (x : Test α) (p : α → Prop) : Prop := ∀ a, x = .ok a → p a

theorem gives_bind {α β : Type} {x : Test α} {f : α → Test β} {p : β → Prop}
    (h : ∀ a, x = .ok a → gives (f a) p) : gives (x >>= f) p := by
  intro b hb
  cases hx : x with
  | error e => rw [hx] at hb; cases hb
  | ok a => rw [hx] at hb; exact h a hx b hb

theorem gives_pure {α : Type} {a : α} {p : α → Prop} (h : p a) : gives (pure a : Test α) p := by
  rintro b ⟨⟩; exact h

/-- The state that a request leaves where its tests pass. -/
theorem gives_pair {s t : State} {fs : List Field} (h : Moves P s t) :
    gives (pure (t, fs) : Test (State × List Field)) fun a => Moves P s a.1 := gives_pure h

theorem gives_refuse {α : Type} {r : Reason} {d : Nat} {p : α → Prop} :
    gives (refuse r d : Test α) p := by rintro b ⟨⟩

theorem require_ok {c : Bool} {r : Reason} {d : Nat} {u : Unit} (h : require c r d = .ok u) :
    c = true := by
  unfold require at h
  split at h
  · assumption
  · cases h

theorem orRefuse_ok {α : Type} {r : Reason} {o : Option α} {a : α} (h : orRefuse r o = .ok a) :
    o = some a := by
  cases o with
  | none => cases h
  | some b => cases h; rfl

theorem answerTest_moves {s : State} {x : Test (State × List Field)}
    (h : gives x fun a => Moves P s a.1) : Moves P s (answerTest s x).1 := by
  cases e : x with
  | ok a => exact h a e
  | error e => exact .refl s

/-! ## Requests that change nothing but the reply -/

theorem State.answerBlockQuery_moves (s : State) (b : Nat) : Moves P s (s.answerBlockQuery b).1 :=
  answerTest_moves (gives_bind fun _ _ => gives_pair (.refl s))

theorem State.answerCacheQuery_moves (s : State) (n : Nat) : Moves P s (s.answerCacheQuery n).1 :=
  answerTest_moves (gives_bind fun _ _ => gives_pair (.refl s))

theorem State.answerRecordingInfo_moves (s : State) (r : Nat) :
    Moves P s (s.answerRecordingInfo r).1 :=
  answerTest_moves (gives_bind fun _ _ => gives_bind fun _ _ => gives_pair (.refl s))

theorem State.answerProfileRead_moves (s : State) (c : Nat) : Moves P s (s.answerProfileRead c).1 :=
  answerTest_moves (gives_bind fun _ _ => gives_pair (.refl s))

theorem State.answerList_moves (s : State) (b : BoxRef) : Moves P s (s.answerList b).1 :=
  answerTest_moves (gives_bind fun _ _ => gives_pair (.refl s))

theorem State.answerListInfo_moves (s : State) (l a n : Nat) :
    Moves P s (s.answerListInfo l a n).1 :=
  answerTest_moves (gives_bind fun _ _ => gives_bind fun _ _ => gives_pair (.refl s))

theorem State.answerJobStatus_moves (s : State) : Moves P s s.answerJobStatus.1 := .refl s
theorem State.answerClockRead_moves (s : State) : Moves P s s.answerClockRead.1 := .refl s
theorem State.answerVoiceSettings_moves (s : State) : Moves P s s.answerVoiceSettings.1 := .refl s

theorem State.answerLampStatusBox_moves (s : State) (b : BoxRef) :
    Moves P s (s.answerLampStatusBox b).1 :=
  answerTest_moves (gives_bind fun _ _ => gives_pair (.refl s))

theorem State.answerLampStatusShelf_moves (s : State) (n : Nat) :
    Moves P s (s.answerLampStatusShelf n).1 :=
  answerTest_moves (gives_bind fun _ _ => gives_pair (.refl s))

/-! ## Settings -/

section Settings
variable (hs : P.settings = true)
include hs

theorem State.answerTrimSet_moves (s : State) (g c : Nat) : Moves P s (s.answerTrimSet g c).1 := by
  unfold State.answerTrimSet
  dsimp only
  exact s.onSettings_moves hs (by exact fun _ h => h)

theorem State.answerPlayoutSet_moves (s : State) (p d : Nat) : Moves P s (s.answerPlayoutSet p d).1 :=
  answerTest_moves (gives_bind fun _ _ => gives_pair
    (s.onSettings_moves hs (by exact fun _ h => Table.write_wf _ _ _ _ h)))

theorem State.answerLevelSet_moves (s : State) (ts : List Nat) : Moves P s (s.answerLevelSet ts).1 := by
  refine answerTest_moves ?_
  dsimp only
  split
  · exact gives_refuse
  · exact gives_pair (s.onSettings_moves hs (by exact fun _ h => h))

theorem State.answerDetectorSet_moves (s : State) (a b c d : Nat) :
    Moves P s (s.answerDetectorSet a b c d).1 := by
  unfold State.answerDetectorSet
  dsimp only
  exact s.onSettings_moves hs (by exact fun _ h => h)

theorem State.answerRampSet_moves (s : State) (a b : List Nat) : Moves P s (s.answerRampSet a b).1 := by
  unfold State.answerRampSet
  dsimp only
  exact s.onSettings_moves hs (by exact fun _ h => h)

theorem State.answerLineSet_moves (s : State) (n : Nat) : Moves P s (s.answerLineSet n).1 := by
  unfold State.answerLineSet
  dsimp only
  exact s.onSettings_moves hs (by exact fun _ h => h)

variable (hl : P.lamps = true)
include hl

theorem State.answerProfileSet_moves (s : State) (c : Nat) (f : ProfileSpec) :
    Moves P s (s.answerProfileSet c f).1 :=
  answerTest_moves (gives_bind fun _ _ => gives_bind fun _ _ => gives_bind fun _ _ => gives_pair
    ((s.setProfiles_moves hs _).trans (State.recomputeAll_moves hl _ _)))

theorem State.answerLampSet_moves (s : State) (a b c d u n : Nat) :
    Moves P s (s.answerLampSet a b c d u n).1 := by
  refine answerTest_moves (gives_bind fun _ _ => gives_pair ?_)
  have h := s.onSettings_moves (P := P) hs (f := fun st => st.withLamps a b c d ‹Bool› n)
    fun _ h => h
  exact Moves.ite h (h.trans (State.recomputeAll_moves hl _ _))

end Settings

/-! ## Boxes and messages -/

section Boxes
variable (hb : P.boxes = true)
include hb

theorem State.answerBoxAssign_moves (s : State) (e : List Nat) (c st : Nat) :
    Moves P s (s.answerBoxAssign e c st).1 :=
  answerTest_moves (gives_bind fun _ _ => gives_bind fun _ _ => gives_bind fun _ _ =>
    gives_bind fun _ _ => gives_bind fun _ _ => gives_pair (s.setBox_moves hb _ _))

theorem State.answerBoxInfo_moves (s : State) (b : BoxRef) (c : Nat) :
    Moves P s (s.answerBoxInfo b c).1 :=
  answerTest_moves (gives_bind fun _ _ => gives_bind fun _ _ => gives_pair
    (Moves.ite (s.onBox_moves hb _ _) (.refl s)))

theorem State.answerAbsenceSet_moves (s : State) (b : BoxRef) (f : Nat) (u : Option Nat) (n : Nat) :
    Moves P s (s.answerAbsenceSet b f u n).1 :=
  answerTest_moves (gives_bind fun _ _ => gives_bind fun _ _ => gives_bind fun _ _ => gives_pair
    (s.setBox_moves hb _ _))

variable (hl : P.lamps = true)
include hl

theorem State.answerBoxSet_moves (s : State) (b : BoxRef) (c st : Option Nat) (e : Option (List Nat)) :
    Moves P s (s.answerBoxSet b c st e).1 := by
  refine answerTest_moves (gives_bind fun b _ => gives_bind fun c _ => gives_bind fun st _ =>
    gives_bind fun e _ => gives_pair ?_)
  have h := s.onBox_moves (P := P) hb b fun x => { x with cls := c, state := st, ext := e }
  exact Moves.ite h (h.trans (State.recompute_moves hl _ _))

theorem State.answerMark_moves (s : State) (b : BoxRef) (pos st : Nat) :
    Moves P s (s.answerMark b pos st).1 :=
  answerTest_moves (gives_bind fun _ _ => gives_bind fun _ _ => gives_bind fun _ _ => gives_pair
    (s.markEntry_moves hb hl _ _))

variable (hs : P.store = true) (hc : P.cache = true)
include hs hc

theorem State.answerDelete_moves (s : State) (b : BoxRef) (pos : Nat) :
    Moves P s (s.answerDelete b pos).1 :=
  answerTest_moves (gives_bind fun _ _ => gives_bind fun _ _ => gives_pair
    ((s.removeEntry_moves hs hb hc _).trans (State.recompute_moves hl _ _)))

theorem State.answerForward_moves (s : State) (a : BoxRef) (pos : Nat) (b : BoxRef) (u : Nat) :
    Moves P s (s.answerForward a pos b u).1 := by
  refine answerTest_moves (gives_bind fun _ _ => gives_bind fun _ _ => gives_bind fun _ _ =>
    gives_bind fun _ _ => gives_bind fun _ _ => gives_bind fun _ _ => gives_bind fun _ _ =>
    gives_bind fun _ _ => ?_)
  unfold State.forwardTo
  split
  · exact gives_refuse
  · next e =>
    exact gives_pair (((s.createEntry_moves hs hb hc e).trans (State.onBox_moves hb _ _ _)).trans
      (State.recompute_moves hl _ _))

omit hl in
theorem State.answerGreetingClear_moves (s : State) (b : BoxRef) (n : Nat) :
    Moves P s (s.answerGreetingClear b n).1 :=
  answerTest_moves (gives_bind fun _ _ => gives_bind fun _ _ => gives_pair
    (s.clearGreeting_moves hs hb hc _ _))

omit hb hl in
theorem State.answerPromptClear_moves (hp : P.prompts = true) (s : State) (n : Nat) :
    Moves P s (s.answerPromptClear n).1 :=
  answerTest_moves (gives_bind fun _ _ => gives_pair (s.clearPrompt_moves hs hc hp _))

theorem State.answerBoxClear_moves (hj : P.jobs = true) (hd : P.lists = true) (s : State) (b : BoxRef) :
    Moves P s (s.answerBoxClear b).1 :=
  answerTest_moves (gives_bind fun _ _ => gives_bind fun _ _ => gives_pair
    (s.clearBox_moves hj hs hb hc hl hd _))

end Boxes

/-! ## Lists and jobs -/

theorem State.answerListCreate_moves (hl : P.lists = true) (s : State) (l : Nat) :
    Moves P s (s.answerListCreate l).1 :=
  answerTest_moves (gives_bind fun _ _ => gives_bind fun _ _ => gives_pair (s.setMembers_moves hl _ _))

section Jobs
variable (hj : P.jobs = true)
include hj

theorem State.answerMemberAdd_moves (hl : P.lists = true) (s : State) (l : Nat) (b : BoxRef) :
    Moves P s (s.answerMemberAdd l b).1 :=
  answerTest_moves (gives_bind fun _ _ => gives_bind fun _ _ => gives_bind fun _ _ =>
    gives_bind fun _ _ => gives_pair (s.addMember_moves hj hl _ _))

theorem State.answerMemberRemove_moves (hl : P.lists = true) (s : State) (l : Nat) (b : BoxRef) :
    Moves P s (s.answerMemberRemove l b).1 :=
  answerTest_moves (gives_bind fun _ _ => gives_bind fun _ _ => gives_bind fun _ _ =>
    gives_pair (s.removeMember_moves hj hl _ _))

variable (hs : P.store = true) (hc : P.cache = true)
include hs hc

theorem State.answerListDelete_moves (hl : P.lists = true) (s : State) (l : Nat) :
    Moves P s (s.answerListDelete l).1 :=
  answerTest_moves (gives_bind fun _ _ => gives_pair (s.deleteList_moves hj hs hc hl _))

/-- A job is queued where the queue has room. -/
theorem State.queueJob_gives {s : State} {r : Nat} {l : Option Nat} {u : Bool} {fs : List Field} :
    gives (do s.jobRoom r; return (s.queueJob r l u, fs) : Test (State × List Field))
      fun a => Moves P s a.1 := by
  refine gives_bind fun _ h => gives_pair (s.queueJob_moves hj hs hc r l u ?_)
  have g : gives (s.jobRoom r) fun _ => s.jobsFull = false :=
    gives_bind fun _ _ a e => by simpa using require_ok e
  exact g _ h

theorem State.answerDeliver_moves (s : State) (r l u : Nat) : Moves P s (s.answerDeliver r l u).1 :=
  answerTest_moves (gives_bind fun _ _ => gives_bind fun _ _ => gives_bind fun _ _ =>
    gives_bind fun _ _ => State.queueJob_gives hj hs hc)

theorem State.answerRecall_moves (s : State) (r : Nat) : Moves P s (s.answerRecall r).1 :=
  answerTest_moves (gives_bind fun _ _ => State.queueJob_gives hj hs hc)

theorem State.answerJobCancel_moves (s : State) (n : Nat) : Moves P s (s.answerJobCancel n).1 := by
  refine answerTest_moves (gives_bind fun _ _ => ?_)
  split
  · exact gives_refuse
  · exact gives_pair (s.endJob_moves hj hs hc _ _)

end Jobs

/-! ## Ports -/

section Ports
variable (hp : P.ports = true)
include hp

theorem State.answerBind_moves (s : State) (p n : Nat) : Moves P s (s.answerBind p n).1 :=
  answerTest_moves (gives_bind fun _ _ => gives_bind fun _ _ => gives_bind fun _ _ => gives_pair
    (s.onPort_moves hp _ (by exact fun _ h => ⟨h.1, Nat.zero_le _⟩)))

theorem State.answerUnbind_moves (s : State) (p : Nat) : Moves P s (s.answerUnbind p).1 :=
  answerTest_moves (gives_bind fun _ _ => gives_bind fun _ _ => gives_pair
    (s.onPort_moves hp _ (by exact fun _ h => h)))

theorem State.answerPortStatus_moves (s : State) (p : Nat) : Moves P s (s.answerPortStatus p).1 :=
  answerTest_moves (gives_bind fun _ _ => gives_pair (s.onPort_moves hp _ (by exact fun _ h => h)))

theorem State.answerTestStart_moves (s : State) (p m n y seed c : Nat) :
    Moves P s (s.answerTestStart p m n y seed c).1 :=
  answerTest_moves (gives_bind fun _ _ => gives_bind fun _ _ => gives_bind fun _ _ =>
    gives_bind fun _ _ => gives_pair
      (s.onPort_moves hp _ (by exact fun _ h => ⟨h.1, Nat.zero_le _⟩)))

theorem State.answerTestInsert_moves (s : State) (p : Nat) (x : InsertSpec) :
    Moves P s (s.answerTestInsert p x).1 :=
  answerTest_moves (gives_bind fun _ _ => gives_bind fun _ _ => gives_bind fun _ _ => gives_pair
    (s.onPort_moves hp _ (by exact fun _ h => h)))

theorem State.endTest_moves (s : State) (p : Nat) : Moves P s (s.endTest p).1 := by
  unfold State.endTest
  dsimp only
  split <;> exact s.onPort_moves hp _ (by exact fun _ h => h)

end Ports

section Calls
variable (h : P.wide)
include h

theorem State.startOperation_moves (s : State) (p : Nat) (o : OpRecord) (gs : List Segment) :
    Moves P s (s.startOperation p o gs) :=
  (((s.takeHolds_moves h.store h.cache gs).trans
    (State.onPort_moves h.ports _ p (by exact fun _ b => b))).trans
    (State.startLevel_moves h.cache h.ports _ _ _)).trans (State.playOn_moves h _ _)

theorem State.bookAnswer_moves (s : State) (b n : Nat) (r : Option Reason) (d : Bool) :
    Moves P s (s.bookAnswer b n r d) := by
  cases r with
  | some r => exact s.countRefusal_moves h.boxes b
  | none =>
    exact Moves.ite ((s.onBox_moves h.boxes _ _).trans (State.recompute_moves h.lamps _ _))
      (s.reserve_moves h.boxes h.lamps _ _)

theorem State.answerAnswer_moves (s : State) (p : Nat) (e : List Nat) (r u : Nat)
    (c : Option (List Nat)) (eos : Nat) : Moves P s (s.answerAnswer p e r u c eos).1 := by
  refine answerTest_moves (gives_bind fun _ _ => gives_bind fun busy _ => gives_bind fun _ _ =>
    gives_bind fun _ _ => gives_bind fun _ _ => gives_bind fun b _ => gives_bind fun _ _ => ?_)
  exact gives_bind fun _ _ => gives_pair
    ((s.bookAnswer_moves h _ _ _ _).trans (State.startOperation_moves h _ _ _ _))

theorem State.startRecord_moves (s : State) (p : Nat) (g : Purpose) (n : Nat) (t : TargetSpec)
    (e : Bool) : Moves P s (s.startRecord p g n t e).1 := s.startOperation_moves h _ _ _

theorem State.answerRecord_moves (s : State) (p : Nat) (t : TargetSpec) (e : Nat) :
    Moves P s (s.answerRecord p t e).1 := by
  unfold State.answerRecord
  generalize s.recordTests p t e = x
  split
  · exact .refl s
  · split
    · exact s.countRefusal_moves h.boxes _
    · dsimp only
      exact (s.reserve_moves h.boxes h.lamps _ _).trans (State.startRecord_moves h _ _ _ _ _ _)
  · exact s.startRecord_moves h _ _ _ _ _

theorem State.answerPlay_moves (s : State) (p : Nat) (gs : List SegmentSpec) :
    Moves P s (s.answerPlay p gs).1 :=
  answerTest_moves (gives_bind fun _ _ => gives_bind fun _ _ => gives_bind fun vs _ =>
    gives_bind fun _ _ => gives_pair ((((s.takeHolds_moves h.store h.cache vs).trans
      (State.onPort_moves h.ports _ p (by exact fun _ b => b))).trans
      (State.startLevel_moves h.cache h.ports _ _ _)).trans (State.playOn_moves h _ _)))

/-- An interjection pushes a level where the context stack has room (R122). -/
theorem State.startInterjection_moves (s : State) (p : Nat) (vs : List Segment)
    (hd : (s.port p).stack.length < Config.maxStack) : Moves P s (s.startInterjection p vs) := by
  have e : ((s.takeHolds vs).dropPin p).port p = s.port p := by
    have m : Moves { P with ports := false } s ((s.takeHolds vs).dropPin p) :=
      (s.takeHolds_moves (P := { P with ports := false }) h.store h.cache vs).trans
        (State.dropPin_moves (P := { P with ports := false }) h.cache _ p)
    have k := m.ports
    simp only [Bool.false_eq_true, false_or] at k
    unfold State.port; rw [k]
  refine Moves.trans (Moves.trans (Moves.trans ((s.takeHolds_moves h.store h.cache vs).trans
    (State.dropPin_moves h.cache _ p)) (State.setPort_moves h.ports _ p fun b => ?_))
    (State.startLevel_moves h.cache h.ports _ _ _)) (State.playOn_moves h _ _)
  rw [e] at b ⊢
  refine ⟨?_, b.2⟩
  change ((s.port p).level.toList ++ (s.port p).stack).length ≤ _
  have : (s.port p).level.toList.length ≤ 1 := by cases (s.port p).level <;> simp
  rw [List.length_append]; omega

theorem State.answerInterject_moves (s : State) (p : Nat) (gs : List SegmentSpec) :
    Moves P s (s.answerInterject p gs).1 :=
  answerTest_moves (gives_bind fun _ _ => gives_bind fun _ _ => gives_bind fun _ hd =>
    gives_bind fun vs _ => gives_bind fun _ _ => gives_pair
      (s.startInterjection_moves h p vs (of_decide_eq_true (require_ok hd))))

theorem State.stopPlaying_moves (s : State) (p : Nat) (all : Bool) :
    Moves P s (s.stopPlaying p all) := by
  have fade : Moves P s (s.onPort p fun q => q.startFade all) :=
    s.onPort_moves h.ports p fun _ b => Port.startFade_bounded b all
  unfold State.stopPlaying
  dsimp only
  split
  · exact s.endFade_moves h _ _
  · split
    · exact Moves.ite ((s.openAtToneEnd_moves h _ _).trans (State.playOn_moves h _ _)) fade
    · exact fade

theorem State.stopPort_moves (s : State) (p : Nat) (all : Bool) : Moves P s (s.stopPort p all).1 := by
  unfold State.stopPort
  split
  · exact .refl s
  · exact .refl s
  · exact s.stopPlaying_moves h p all
  · exact s.endCapture_moves h _ _
  · exact .refl s
  · exact s.endTest_moves h.ports p

theorem State.answerStop_moves (s : State) (p a : Nat) : Moves P s (s.answerStop p a).1 :=
  answerTest_moves (gives_bind fun _ _ => gives_bind fun _ _ => gives_pair (s.stopPort_moves h p _))

theorem State.answerRelease_moves (s : State) (p : Nat) : Moves P s (s.answerRelease p).1 := by
  refine answerTest_moves (gives_bind fun _ _ => gives_pair ?_)
  split
  · exact .refl s
  · exact .refl s
  · exact Moves.ite (s.endOp_moves h _ _) (s.endPlay_moves h _ _ _)
  · exact s.endCapture_moves h _ _
  · exact .refl s
  · exact s.endTest_moves h.ports p

theorem State.answerAbort_moves (s : State) (p : Nat) : Moves P s (s.answerAbort p).1 := by
  refine answerTest_moves (gives_bind fun _ _ => gives_pair ?_)
  split
  · exact .refl s
  · exact .refl s
  · exact Moves.ite (s.endOp_moves h _ _) (s.endPlay_moves h _ _ _)
  · exact s.abandonCapture_moves h _ _
  · exact s.markDiscard_moves h p
  · exact s.endTest_moves h.ports p

theorem State.answerPortReset_moves (s : State) (p : Nat) : Moves P s (s.answerPortReset p).1 := by
  refine answerTest_moves (gives_bind fun _ _ => gives_pair ?_)
  refine Moves.trans (Moves.trans ?_ (State.dropPin_moves h.cache _ p))
    (State.onPort_moves h.ports _ p (by exact fun q _ => Port.rested_bounded q))
  unfold State.resetWork
  split
  · exact .refl s
  · exact .refl s
  · exact .refl s
  · exact Moves.ite (s.endOp_moves h _ _) (s.endPlay_moves h _ _ _)
  · exact s.abandonCapture_moves h _ _
  · exact s.abandonCapture_moves h _ _

end Calls

/-! ## Lamps -/

section Lamps
variable (hl : P.lamps = true)
include hl

theorem State.answerLampMap_moves (s : State) (b : BoxRef) (shelf station : Nat) :
    Moves P s (s.answerLampMap b shelf station).1 := by
  refine answerTest_moves (gives_bind fun b _ => gives_bind fun _ _ => gives_bind fun _ hq =>
    gives_pair ?_)
  cases e : s.boxAt shelf station with
  | none => exact s.mapLamp_moves hl (State.boxAt_none e)
  | some c =>
    have k := require_ok hq
    rw [e] at k
    have k : c = b := by simpa using k
    subst k
    rw [if_pos rfl]

theorem State.answerLampUnmap_moves (s : State) (b : BoxRef) : Moves P s (s.answerLampUnmap b).1 :=
  answerTest_moves (gives_bind fun _ _ => gives_pair (s.unmapLamp_moves hl _))

theorem State.answerLampSource_moves (s : State) (b : BoxRef) (n : Nat) :
    Moves P s (s.answerLampSource b n).1 :=
  answerTest_moves (gives_bind fun _ _ => gives_bind fun _ _ => gives_pair
    ((s.tweakLamp_moves hl _ _ ⟨rfl, rfl, fun _ => rfl⟩).trans (State.recompute_moves hl _ _)))

omit hl in
/-- Every box of a scope has a station. -/
theorem State.scopeBoxes_mapped {s : State} (w : s.lamps.wf Lamp.unmapped = true)
    (scope : RefreshScope) : gives (s.scopeBoxes scope) fun bs => ∀ b ∈ bs, (s.lamp b).station ≠ none := by
  have srt := w
  simp only [Table.wf, Bool.and_eq_true] at srt
  cases scope with
  | all =>
    refine gives_pure (a := s.mappedBoxes) fun b hb => ?_
    obtain ⟨v, e, g⟩ := (Table.mem_select srt.1 b).1 hb
    unfold State.lamp Table.read
    rw [e]; intro k
    simp only [Option.getD_some] at k
    simp [k] at g
  | shelf n =>
    refine gives_bind fun _ _ => gives_pure fun b hb => ?_
    obtain ⟨m, k⟩ := (s.mem_mappedTo w n b).1 hb
    simp [k]
  | box r =>
    refine gives_bind fun b _ => gives_pure fun c hc => ?_
    split at hc
    · next k =>
      obtain rfl : c = b := by simpa using hc
      exact fun e => by simp [e] at k
    · simp at hc
  | unknown n => exact gives_refuse

theorem State.answerLampRefresh_moves (s : State) (scope : RefreshScope) :
    Moves P s (s.answerLampRefresh scope).1 := by
  have each (Q : Parts) (h : Q.lamps = true) : Changes Q s (s.answerLampRefresh scope).1 := by
    unfold State.answerLampRefresh
    cases e : s.scopeBoxes scope with
    | error e => exact .refl s
    | ok bs =>
      exact (Changes.foldl (fun s b => s.refreshLamp_changes h b) bs s).trans
        (State.downNext_moves h _).toChanges
  refine .ofLamps each hl fun w l k => ?_
  refine (answerTest_moves (P := P) (s := s) (gives_bind fun bs hb => gives_pair
    ((s.refreshAll_moves hl bs (State.scopeBoxes_mapped w scope _ hb)).trans
      (State.downNext_moves hl _)))).lampsIn w l k

end Lamps

end Sys2Proof.Machine
end

