-- ==== Sys2Proof/Laws/PerInstr.lean ====
section
/-! SUPPORT. One lemma per command of each family of statements about all commands. -/

namespace Sys2Proof.Laws

/-- The kind byte of a request's frame names a request (R178 test 2, R185). -/
def KindNamed.Statement (i : Instr) : Prop :=
  ∀ kind tag body, requestFrame i = some (kind, tag, body) → isRequestKind kind = true

/-- A command whose frame has a kind that names a request. -/
theorem kindNamed_of {i : Instr} {k t : Nat} {b : List Byte} (h : requestFrame i = some (k, t, b))
    (hk : isRequestKind k = true) : KindNamed.Statement i := by
  intro kind tag body e
  rw [h] at e
  cases e
  exact hk

/-- A command that is no request. -/
theorem kindNamed_of_none {i : Instr} (h : requestFrame i = none) : KindNamed.Statement i := by
  intro kind tag body e
  rw [h] at e
  cases e

theorem KindNamed.powerOnColdStart (directoryKept : Bool) :
    KindNamed.Statement (Instr.powerOnColdStart directoryKept) := kindNamed_of_none rfl

theorem KindNamed.warmRestartRecovery : KindNamed.Statement Instr.warmRestartRecovery := kindNamed_of_none rfl

theorem KindNamed.formatRun : KindNamed.Statement Instr.formatRun := kindNamed_of_none rfl

theorem KindNamed.controlFrameReceived (bytes : List Byte) :
    KindNamed.Statement (Instr.controlFrameReceived bytes) := kindNamed_of_none rfl

theorem KindNamed.frameByteTimeout : KindNamed.Statement Instr.frameByteTimeout := kindNamed_of_none rfl

theorem KindNamed.unknownKindRequest (tag kind : Nat) (body : List Byte) :
    KindNamed.Statement (Instr.unknownKindRequest tag kind body) := kindNamed_of_none rfl

theorem KindNamed.transmitFrameDone : KindNamed.Statement Instr.transmitFrameDone := kindNamed_of_none rfl

theorem KindNamed.status (tag : Nat) :
    KindNamed.Statement (Instr.status tag) := kindNamed_of rfl rfl

theorem KindNamed.restart (tag : Nat) :
    KindNamed.Statement (Instr.restart tag) := kindNamed_of rfl rfl

theorem KindNamed.format (tag : Nat) :
    KindNamed.Statement (Instr.format tag) := kindNamed_of rfl rfl

theorem KindNamed.noticeMask (tag mask : Nat) :
    KindNamed.Statement (Instr.noticeMask tag mask) := kindNamed_of rfl rfl

theorem KindNamed.blockQuery (tag block : Nat) :
    KindNamed.Statement (Instr.blockQuery tag block) := kindNamed_of rfl rfl

theorem KindNamed.cacheQuery (tag line : Nat) :
    KindNamed.Statement (Instr.cacheQuery tag line) := kindNamed_of rfl rfl

theorem KindNamed.recordingInfo (tag id : Nat) :
    KindNamed.Statement (Instr.recordingInfo tag id) := kindNamed_of rfl rfl

theorem KindNamed.promptClear (tag slot : Nat) :
    KindNamed.Statement (Instr.promptClear tag slot) := kindNamed_of rfl rfl

theorem KindNamed.boxAssign (tag : Nat) (ext : List Nat) (cls state : Nat) :
    KindNamed.Statement (Instr.boxAssign tag ext cls state) := kindNamed_of rfl rfl

theorem KindNamed.boxSet (tag : Nat) (box : BoxRef) (cls state : Option Nat) (ext : Option (List Nat)) :
    KindNamed.Statement (Instr.boxSet tag box cls state ext) := kindNamed_of rfl rfl

theorem KindNamed.boxClear (tag : Nat) (box : BoxRef) :
    KindNamed.Statement (Instr.boxClear tag box) := kindNamed_of rfl rfl

theorem KindNamed.boxInfo (tag : Nat) (box : BoxRef) (clear : Nat) :
    KindNamed.Statement (Instr.boxInfo tag box clear) := kindNamed_of rfl rfl

theorem KindNamed.profileRead (tag cls : Nat) :
    KindNamed.Statement (Instr.profileRead tag cls) := kindNamed_of rfl rfl

theorem KindNamed.profileSet (tag cls : Nat) (fields : ProfileSpec) :
    KindNamed.Statement (Instr.profileSet tag cls fields) := kindNamed_of rfl rfl

theorem KindNamed.list (tag : Nat) (box : BoxRef) :
    KindNamed.Statement (Instr.list tag box) := kindNamed_of rfl rfl

theorem KindNamed.mark (tag : Nat) (box : BoxRef) (position state : Nat) :
    KindNamed.Statement (Instr.mark tag box position state) := kindNamed_of rfl rfl

theorem KindNamed.delete (tag : Nat) (box : BoxRef) (position : Nat) :
    KindNamed.Statement (Instr.delete tag box position) := kindNamed_of rfl rfl

theorem KindNamed.forward (tag : Nat) (boxA : BoxRef) (position : Nat) (boxB : BoxRef) (urgent : Nat) :
    KindNamed.Statement (Instr.forward tag boxA position boxB urgent) := kindNamed_of rfl rfl

theorem KindNamed.greetingClear (tag : Nat) (box : BoxRef) (slot : Nat) :
    KindNamed.Statement (Instr.greetingClear tag box slot) := kindNamed_of rfl rfl

theorem KindNamed.absenceSet (tag : Nat) (box : BoxRef) (flag : Nat) (untilDay : Option Nat) (noDeposit : Nat) :
    KindNamed.Statement (Instr.absenceSet tag box flag untilDay noDeposit) := kindNamed_of rfl rfl

theorem KindNamed.trimSet (tag guard cap : Nat) :
    KindNamed.Statement (Instr.trimSet tag guard cap) := kindNamed_of rfl rfl

theorem KindNamed.listCreate (tag list : Nat) :
    KindNamed.Statement (Instr.listCreate tag list) := kindNamed_of rfl rfl

theorem KindNamed.listInfo (tag list start count : Nat) :
    KindNamed.Statement (Instr.listInfo tag list start count) := kindNamed_of rfl rfl

theorem KindNamed.listDelete (tag list : Nat) :
    KindNamed.Statement (Instr.listDelete tag list) := kindNamed_of rfl rfl

theorem KindNamed.memberAdd (tag list : Nat) (box : BoxRef) :
    KindNamed.Statement (Instr.memberAdd tag list box) := kindNamed_of rfl rfl

theorem KindNamed.memberRemove (tag list : Nat) (box : BoxRef) :
    KindNamed.Statement (Instr.memberRemove tag list box) := kindNamed_of rfl rfl

theorem KindNamed.deliver (tag recording list urgent : Nat) :
    KindNamed.Statement (Instr.deliver tag recording list urgent) := kindNamed_of rfl rfl

theorem KindNamed.recall (tag recording : Nat) :
    KindNamed.Statement (Instr.recall tag recording) := kindNamed_of rfl rfl

theorem KindNamed.jobCancel (tag job : Nat) :
    KindNamed.Statement (Instr.jobCancel tag job) := kindNamed_of rfl rfl

theorem KindNamed.jobStatus (tag : Nat) :
    KindNamed.Statement (Instr.jobStatus tag) := kindNamed_of rfl rfl

theorem KindNamed.clockSet (tag day minute : Nat) :
    KindNamed.Statement (Instr.clockSet tag day minute) := kindNamed_of rfl rfl

theorem KindNamed.clockRead (tag : Nat) :
    KindNamed.Statement (Instr.clockRead tag) := kindNamed_of rfl rfl

theorem KindNamed.answer (tag port : Nat) (ext : List Nat) (reason urgent : Nat) (caller : Option (List Nat)) (endOnSilence : Nat) :
    KindNamed.Statement (Instr.answer tag port ext reason urgent caller endOnSilence) := kindNamed_of rfl rfl

theorem KindNamed.record (tag port : Nat) (target : TargetSpec) (endOnSilence : Nat) :
    KindNamed.Statement (Instr.record tag port target endOnSilence) := kindNamed_of rfl rfl

theorem KindNamed.bind (tag port slot : Nat) :
    KindNamed.Statement (Instr.bind tag port slot) := kindNamed_of rfl rfl

theorem KindNamed.unbind (tag port : Nat) :
    KindNamed.Statement (Instr.unbind tag port) := kindNamed_of rfl rfl

theorem KindNamed.play (tag port : Nat) (segments : List SegmentSpec) :
    KindNamed.Statement (Instr.play tag port segments) := kindNamed_of rfl rfl

theorem KindNamed.interject (tag port : Nat) (segments : List SegmentSpec) :
    KindNamed.Statement (Instr.interject tag port segments) := kindNamed_of rfl rfl

theorem KindNamed.stop (tag port all : Nat) :
    KindNamed.Statement (Instr.stop tag port all) := kindNamed_of rfl rfl

theorem KindNamed.release (tag port : Nat) :
    KindNamed.Statement (Instr.release tag port) := kindNamed_of rfl rfl

theorem KindNamed.abort (tag port : Nat) :
    KindNamed.Statement (Instr.abort tag port) := kindNamed_of rfl rfl

theorem KindNamed.portReset (tag port : Nat) :
    KindNamed.Statement (Instr.portReset tag port) := kindNamed_of rfl rfl

theorem KindNamed.portStatus (tag port : Nat) :
    KindNamed.Statement (Instr.portStatus tag port) := kindNamed_of rfl rfl

theorem KindNamed.playoutSet (tag port depth : Nat) :
    KindNamed.Statement (Instr.playoutSet tag port depth) := kindNamed_of rfl rfl

theorem KindNamed.test (tag port mode n y seed clearCounts : Nat) :
    KindNamed.Statement (Instr.test tag port mode n y seed clearCounts) := kindNamed_of rfl rfl

theorem KindNamed.testInsert (tag port : Nat) (insertion : InsertSpec) :
    KindNamed.Statement (Instr.testInsert tag port insertion) := kindNamed_of rfl rfl

theorem KindNamed.levelSet (tag : Nat) (thresholds : List Nat) :
    KindNamed.Statement (Instr.levelSet tag thresholds) := kindNamed_of rfl rfl

theorem KindNamed.detectorSet (tag speechClass speechCount quietLength startTimeout : Nat) :
    KindNamed.Statement (Instr.detectorSet tag speechClass speechCount quietLength startTimeout) := kindNamed_of rfl rfl

theorem KindNamed.rampSet (tag : Nat) (fadeIn fadeOut : List Nat) :
    KindNamed.Statement (Instr.rampSet tag fadeIn fadeOut) := kindNamed_of rfl rfl

theorem KindNamed.voiceSettingsRead (tag : Nat) :
    KindNamed.Statement (Instr.voiceSettingsRead tag) := kindNamed_of rfl rfl

theorem KindNamed.lampMap (tag : Nat) (box : BoxRef) (shelf station : Nat) :
    KindNamed.Statement (Instr.lampMap tag box shelf station) := kindNamed_of rfl rfl

theorem KindNamed.lampUnmap (tag : Nat) (box : BoxRef) :
    KindNamed.Statement (Instr.lampUnmap tag box) := kindNamed_of rfl rfl

theorem KindNamed.lampSource (tag : Nat) (box : BoxRef) (source : Nat) :
    KindNamed.Statement (Instr.lampSource tag box source) := kindNamed_of rfl rfl

theorem KindNamed.lampSet (tag slowOn slowOff fastOn fastOff fastForUrgent settle : Nat) :
    KindNamed.Statement (Instr.lampSet tag slowOn slowOff fastOn fastOff fastForUrgent settle) := kindNamed_of rfl rfl

theorem KindNamed.lampRefresh (tag : Nat) (scope : RefreshScope) :
    KindNamed.Statement (Instr.lampRefresh tag scope) := kindNamed_of rfl rfl

theorem KindNamed.lampStatusBox (tag : Nat) (box : BoxRef) :
    KindNamed.Statement (Instr.lampStatusBox tag box) := kindNamed_of rfl rfl

theorem KindNamed.lampStatusShelf (tag shelf : Nat) :
    KindNamed.Statement (Instr.lampStatusShelf tag shelf) := kindNamed_of rfl rfl

theorem KindNamed.lineSet (tag retryLimit : Nat) :
    KindNamed.Statement (Instr.lineSet tag retryLimit) := kindNamed_of rfl rfl

theorem KindNamed.frameTime (received : List (Nat × Frame)) :
    KindNamed.Statement (Instr.frameTime received) := kindNamed_of_none rfl

theorem KindNamed.stopFadeEnd (port : Nat) :
    KindNamed.Statement (Instr.stopFadeEnd port) := kindNamed_of_none rfl

theorem KindNamed.captureFrameStore (port : Nat) :
    KindNamed.Statement (Instr.captureFrameStore port) := kindNamed_of_none rfl

theorem KindNamed.detectorQuiet (port : Nat) :
    KindNamed.Statement (Instr.detectorQuiet port) := kindNamed_of_none rfl

theorem KindNamed.detectorStartTimeout (port : Nat) :
    KindNamed.Statement (Instr.detectorStartTimeout port) := kindNamed_of_none rfl

theorem KindNamed.captureLimitReached (port : Nat) :
    KindNamed.Statement (Instr.captureLimitReached port) := kindNamed_of_none rfl

theorem KindNamed.fillCompletion (line : Nat) (ending : FlashEnd) :
    KindNamed.Statement (Instr.fillCompletion line ending) := kindNamed_of_none rfl

theorem KindNamed.writeCompletion (line : Nat) (ending : FlashEnd) :
    KindNamed.Statement (Instr.writeCompletion line ending) := kindNamed_of_none rfl

theorem KindNamed.flashOperationTimeout : KindNamed.Statement Instr.flashOperationTimeout := kindNamed_of_none rfl

theorem KindNamed.jobStep : KindNamed.Statement Instr.jobStep := kindNamed_of_none rfl

theorem KindNamed.minuteTimerExpiry : KindNamed.Statement Instr.minuteTimerExpiry := kindNamed_of_none rfl

theorem KindNamed.sweepStep : KindNamed.Statement Instr.sweepStep := kindNamed_of_none rfl

theorem KindNamed.settleTimerExpiry (box : Nat) :
    KindNamed.Statement (Instr.settleTimerExpiry box) := kindNamed_of_none rfl

theorem KindNamed.downLineFrameDone : KindNamed.Statement Instr.downLineFrameDone := kindNamed_of_none rfl

theorem KindNamed.ackTimerExpiry (shelf : Nat) :
    KindNamed.Statement (Instr.ackTimerExpiry shelf) := kindNamed_of_none rfl

theorem KindNamed.probeTimerExpiry (shelf : Nat) :
    KindNamed.Statement (Instr.probeTimerExpiry shelf) := kindNamed_of_none rfl

theorem KindNamed.pauseExpiry (shelf : Nat) :
    KindNamed.Statement (Instr.pauseExpiry shelf) := kindNamed_of_none rfl

theorem KindNamed.ackDone (shelf number : Nat) :
    KindNamed.Statement (Instr.ackDone shelf number) := kindNamed_of_none rfl

theorem KindNamed.ackNoStation (shelf number : Nat) :
    KindNamed.Statement (Instr.ackNoStation shelf number) := kindNamed_of_none rfl

theorem KindNamed.ackLampFault (shelf number : Nat) :
    KindNamed.Statement (Instr.ackLampFault shelf number) := kindNamed_of_none rfl

theorem KindNamed.shelfRestart (shelf number : Nat) :
    KindNamed.Statement (Instr.shelfRestart shelf number) := kindNamed_of_none rfl

theorem KindNamed.shelfPause (shelf number time : Nat) :
    KindNamed.Statement (Instr.shelfPause shelf number time) := kindNamed_of_none rfl

theorem KindNamed.stationFault (shelf number station : Nat) :
    KindNamed.Statement (Instr.stationFault shelf number station) := kindNamed_of_none rfl

theorem KindNamed.upLineBadFrame (bytes : List Byte) :
    KindNamed.Statement (Instr.upLineBadFrame bytes) := kindNamed_of_none rfl

theorem KindNamed.upLineByteTimeout : KindNamed.Statement Instr.upLineByteTimeout := kindNamed_of_none rfl

theorem KindNamed.lengthFieldAbove1020 (bytes : List Byte) :
    KindNamed.Statement (Instr.lengthFieldAbove1020 bytes) := kindNamed_of_none rfl

end Sys2Proof.Laws
end

