-- ==== Sys2Proof/Laws/StartBooks.lean ====
section
/-! SUPPORT. The starts keep the books: recovery those of the block store, the refresh at the start
those of the Lamp Unit, and FORMAT and a lost directory memory begin them anew. -/

namespace Sys2Proof.Machine

variable {P : Parts}

/-! ## A new block store -/

/-- The blocks of runs that leave some out. -/
theorem runsWithout_blocks (limit : Nat) (skip : List Nat) (start : Nat)
    (hs : skip.Pairwise (· < ·)) :
    ((runsWithout limit start skip).flatMap Run.blocks).Nodup ∧
    ∀ b, b ∈ (runsWithout limit start skip).flatMap Run.blocks ↔
      start ≤ b ∧ b ∉ skip ∧ (b < limit ∨ ∃ c ∈ skip, b < c) := by
  have mem (f n b : Nat) : b ∈ Run.blocks ⟨f, n⟩ ↔ f ≤ b ∧ b < f + n := by
    simp only [Run.blocks, List.mem_map, List.mem_range]
    constructor
    · rintro ⟨a, h, rfl⟩; omega
    · rintro ⟨h1, h2⟩; exact ⟨b - f, by omega, by omega⟩
  have once (f n : Nat) : (Run.blocks ⟨f, n⟩).Nodup :=
    (List.nodup_range).map fun a b h => Nat.add_left_cancel h
  induction skip generalizing start with
  | nil =>
    unfold runsWithout
    split
    · simp only [List.flatMap_cons, List.flatMap_nil, List.append_nil]
      refine ⟨once _ _, fun b => ?_⟩
      rw [mem]; simp; omega
    · refine ⟨.nil, fun b => ?_⟩
      simp; omega
  | cons c rest ih =>
    obtain ⟨h1, h2⟩ := List.pairwise_cons.1 hs
    unfold runsWithout
    split
    · next lt =>
      obtain ⟨k1, k2⟩ := ih (c + 1) h2
      simp only [List.flatMap_cons]
      refine ⟨List.nodup_append.2 ⟨once _ _, k1, ?_⟩, fun b => ?_⟩
      · rintro a ha b hb rfl
        rw [mem] at ha; rw [k2] at hb; omega
      · rw [List.mem_append, mem, k2]
        constructor
        · rintro (⟨a1, a2⟩ | ⟨a1, a2, a3⟩)
          · refine ⟨a1, ?_, .inr ⟨c, by simp, by omega⟩⟩
            simp only [List.mem_cons, not_or]
            exact ⟨by omega, fun m => by have := h1 b m; omega⟩
          · refine ⟨by omega, ?_, a3.imp id fun ⟨x, m, y⟩ => ⟨x, List.mem_cons_of_mem _ m, y⟩⟩
            simp only [List.mem_cons, not_or]; exact ⟨by omega, a2⟩
        · rintro ⟨a1, a2, a3⟩
          simp only [List.mem_cons, not_or] at a2
          by_cases hb : b < c
          · exact .inl ⟨a1, by omega⟩
          · refine .inr ⟨by omega, a2.2, a3.imp id ?_⟩
            rintro ⟨x, m, y⟩
            rcases List.mem_cons.1 m with rfl | m
            · omega
            · exact ⟨x, m, y⟩
    · next ge =>
      obtain ⟨k1, k2⟩ := ih (max start (c + 1)) h2
      refine ⟨k1, fun b => ?_⟩
      rw [k2]
      constructor
      · rintro ⟨a1, a2, a3⟩
        refine ⟨by omega, ?_, a3.imp id fun ⟨x, m, y⟩ => ⟨x, List.mem_cons_of_mem _ m, y⟩⟩
        simp only [List.mem_cons, not_or]; exact ⟨by omega, a2⟩
      · rintro ⟨a1, a2, a3⟩
        simp only [List.mem_cons, not_or] at a2
        refine ⟨by omega, a2.2, a3.imp id ?_⟩
        rintro ⟨x, m, y⟩
        rcases List.mem_cons.1 m with rfl | m
        · omega
        · exact ⟨x, m, y⟩

/-- A pool of every block but some of the array. -/
theorem Pool.allBut_blocks {skip : List Nat} (hs : skip.Pairwise (· < ·)) :
    (Pool.allBut skip).blocks.Nodup ∧
    ∀ b, b ∈ (Pool.allBut skip).blocks ↔ b < Config.numBlocks ∧ b ∉ skip := by
  obtain ⟨h1, h2⟩ := runsWithout_blocks Config.numBlocks (skip.filter (· < Config.numBlocks)) 0
    (hs.sublist List.filter_sublist)
  refine ⟨h1, fun b => (h2 b).trans ?_⟩
  simp only [List.mem_filter, decide_eq_true_eq, Nat.zero_le, true_and]
  constructor
  · rintro ⟨a, b⟩
    have lt : ‹Nat› < Config.numBlocks := by
      rcases b with b | ⟨c, m, y⟩
      · exact b
      · omega
    exact ⟨lt, fun m => a ⟨m, lt⟩⟩
  · rintro ⟨a, b⟩; exact ⟨fun m => b m.1, .inl a⟩

/-- A store with no recording, whose pool holds every block that is not RETIRED, is in order. -/
theorem StoreBooks.fresh {d : Directory} (ho : d.pool.blocks.Nodup)
    (hp : ∀ b, b ∈ d.pool.blocks ↔ b < Config.numBlocks ∧ d.block b = none)
    (hb : ∀ b, d.block b = none ∨ d.block b = some .retired ∧ b < Config.numBlocks)
    (hr : d.recordings = ⟨[]⟩) : StoreBooks d where
  once := ho
  free := hp
  range b h := ((hb b).resolve_left h).2
  chains r v h := by rw [hr] at h; cases h
  owned b r n h := by rcases hb b with e | ⟨e, -⟩ <;> rw [e] at h <;> cases h

theorem Pool.range_blocks (f n : Nat) : (Pool.range f n).blocks = (List.range n).map (f + ·) := by
  unfold Pool.range
  split
  · next e => subst e; rfl
  · simp [Pool.blocks, Run.blocks]

theorem Pool.range_zero (n : Nat) : (Pool.range 0 n).blocks = List.range n := by
  rw [Pool.range_blocks]; simp

theorem StoreBooks.all {d : Directory} (n : Nat) (hn : n = Config.numBlocks)
    (hp : d.pool = Pool.range 0 n) (hb : ∀ b, d.block b = none) (hr : d.recordings = ⟨[]⟩) :
    StoreBooks d := by
  have e : d.pool.blocks = List.range n := by rw [hp, Pool.range_zero]
  refine .fresh (e ▸ List.nodup_range) (fun b => ?_) (fun b => .inl (hb b)) hr
  rw [e, List.mem_range, hn]
  exact ⟨fun h => ⟨h, hb b⟩, fun h => h.1⟩

theorem Directory.initialised_books : StoreBooks Directory.initialised :=
  .all Config.numBlocks rfl rfl (fun _ => rfl) rfl

/-- FORMAT keeps the RETIRED blocks and frees every other (R18). -/
theorem Directory.formatted_books {d : Directory} (hd : d.canonical) (h : StoreBooks d) :
    StoreBooks d.formatted := by
  have srt := (Table.sorted_iff _).1 hd.1
  have hs : ((d.blocks.rows.filter fun b => b.2 == .retired).map Prod.fst).Pairwise (· < ·) :=
    srt.sublist (List.filter_sublist.map _)
  have mem (b : Nat) : b ∈ (d.blocks.rows.filter fun b => b.2 == .retired).map Prod.fst ↔
      d.block b = some .retired := by
    rw [show (d.blocks.rows.filter fun b => b.2 == BlockStatus.retired).map Prod.fst =
      d.blocks.select (· == .retired) from rfl, Table.mem_select hd.1]
    simp [Directory.block]
  have blk (b : Nat) : d.formatted.block b =
      if d.block b = some .retired then some .retired else none := by
    have e : d.formatted.block b = rowFind (d.blocks.rows.filter fun b => b.2 == .retired) b := rfl
    rw [e]
    split
    · next k => exact rowFind_of_mem hs (List.mem_filter.2 ⟨rowFind_mem k, by simp⟩)
    · next k =>
      cases f : rowFind (d.blocks.rows.filter fun b => b.2 == .retired) b with
      | none => rfl
      | some v =>
        have m := rowFind_mem f
        exact absurd ((mem b).1 (List.mem_map.2 ⟨_, m, rfl⟩)) k
  obtain ⟨k1, k2⟩ := Pool.allBut_blocks hs
  refine .fresh k1 (fun b => ?_) (fun b => ?_) rfl
  · rw [blk]
    refine (k2 b).trans ?_
    rw [mem]; simp
  · rw [blk]
    split
    · next k => exact .inr ⟨rfl, h.range b (by rw [k]; simp)⟩
    · exact .inl rfl

/-! ## Recovery -/

theorem Directory.clearReservations_canonical {d : Directory} (h : d.canonical) :
    d.clearReservations.canonical := by
  obtain ⟨a, b, c, e, f, g, i⟩ := h
  refine ⟨a, b, ?_, e, f, g, i⟩
  unfold Directory.clearReservations
  dsimp only
  generalize d.boxes.keys = ks
  generalize d.boxes = t at c ⊢
  induction ks generalizing t with
  | nil => exact c
  | cons k rest ih => exact ih _ (Table.write_wf _ _ _ _ c)

theorem Directory.recount_canonical {d : Directory} (h : d.canonical) (f : Nat → Nat) :
    Directory.canonical { d with recordings := ⟨d.recordings.rows.map fun v =>
      (v.1, { v.2 with references := f v.1 })⟩ } := by
  obtain ⟨a, b, c, e⟩ := h
  refine ⟨a, (Table.sorted_iff _).2 ?_, c, e⟩
  have := (Table.sorted_iff _).1 b
  simpa [List.map_map, Function.comp_def] using this

theorem StoreBooks.counted {d e : Directory} (h : StoreBooks d) {f : Nat → Nat}
    (hb : e.blocks = d.blocks) (hp : e.pool = d.pool)
    (hr : ∀ r, e.recordings.find r = (d.recordings.find r).map fun v => { v with references := f r }) :
    StoreBooks e := by
  have blk (b : Nat) : e.block b = d.block b := by unfold Directory.block; rw [hb]
  refine ⟨hp ▸ h.once, fun b => ?_, fun b => ?_, fun r v hv => ?_, fun b r n k => ?_⟩
  · rw [hp, blk]; exact h.free b
  · rw [blk]; exact h.range b
  · rw [hr] at hv
    obtain ⟨w, hw, rfl⟩ := Option.map_eq_some_iff.1 hv
    exact ((h.chains r w hw).record (w := { w with references := f r }) rfl rfl rfl).congr fun b _ => blk b
  · rw [blk] at k
    obtain ⟨v, hv, m⟩ := h.owned b r n k
    refine ⟨{ v with references := f r }, by rw [hr, hv]; rfl, ?_⟩
    rw [Directory.chainOf_congr (d := d) (e := e) fun b _ => blk b]
    exact m

/-- Counting references changes no chain. -/
theorem StoreBooks.recount {d : Directory} (h : StoreBooks d) (f : Nat → Nat) :
    StoreBooks { d with recordings := ⟨d.recordings.rows.map fun v =>
      (v.1, { v.2 with references := f v.1 })⟩ } := by
  have find (r : Nat) : (Table.mk (d.recordings.rows.map fun v =>
      (v.1, { v.2 with references := f v.1 }))).find r =
      (d.recordings.find r).map fun v => { v with references := f r } := by
    unfold Table.find
    dsimp only
    induction d.recordings.rows with
    | nil => rfl
    | cons a rest ih =>
      obtain ⟨k, v⟩ := a
      simp only [List.map_cons, rowFind]
      split
      · next e => subst e; rfl
      · exact ih
  exact h.counted rfl rfl find

/-- Every DRAINING block is freed (R16). -/
theorem State.freeDraining_books (s : State) (hd : s.dir.canonical) (h : StoreBooks s.dir) :
    StoreBooks s.freeDraining.dir := by
  have key (bs : List Nat) (hn : bs.Nodup) (t : State) (h : StoreBooks t.dir)
      (hb : ∀ b ∈ bs, t.dir.block b = some .draining) : StoreBooks (bs.foldl State.appendFree t).dir := by
    induction bs generalizing t with
    | nil => exact h
    | cons b rest ih =>
      obtain ⟨n1, n2⟩ := List.nodup_cons.1 hn
      refine ih n2 _ (t.appendFree_books h.but (.inr (hb b (by simp)))).whole fun c hc => ?_
      have ne : c ≠ b := by rintro rfl; exact n1 hc
      obtain ⟨e1, -, -⟩ :=
        (t.onDir fun d => { d.clearBlock b with pool := d.pool.append b }).evalLevel_dir
      have e : (t.appendFree b).dir.block c = t.dir.block c := by
        unfold State.appendFree Directory.block
        rw [e1]; exact Table.find_drop_other _ ne
      rw [e]; exact hb c (List.mem_cons_of_mem _ hc)
  refine key _ (Table.select_nodup _ hd.1) s h fun b hb => ?_
  obtain ⟨v, e, k⟩ := (Table.mem_select hd.1 b).1 hb
  exact e.trans (by simpa using k)

/-- Recovery keeps the books of the block store (R16). -/
theorem State.recoverDirectory_books (s : State) (hd : s.dir.canonical) (h : StoreBooks s.dir) :
    StoreBooks s.recoverDirectory.dir := by
  have free (rs : List Nat) (t : State) : Moves ⟨true, true, true, true, true, true, true, true, true⟩ t
      (rs.foldl State.freeRecording t) := Moves.foldl (fun t r => t.freeRecording_moves rfl rfl r) rs t
  have d1 : (s.onDir Directory.clearReservations).dir.canonical := Directory.clearReservations_canonical hd
  have b1 : StoreBooks (s.onDir Directory.clearReservations).dir := h.same rfl rfl rfl
  set t := s.onDir Directory.clearReservations
  have d2 : t.freeIncomplete.dir.canonical := (free _ t).dirIn d1
  have b2 : StoreBooks t.freeIncomplete.dir := (free _ t).storeIn d1 b1
  set u := t.freeIncomplete
  have d3 := Directory.recount_canonical d2 u.dir.namesOf
  have b3 := b2.recount u.dir.namesOf
  exact State.freeDraining_books _ ((free _ _).dirIn d3) ((free _ _).storeIn d3 b3)

/-! ## The Lamp Unit at a start -/

/-- With every order's box link gone, every record SETTLED and the queue empty, the mapped boxes join
the queue (R167). -/
theorem State.refreshAtStart_books (s : State) (w : s.lamps.wf Lamp.unmapped = true)
    (ho : ∀ o ∈ s.line.orders, o.box = none)
    (ha : ∀ a b st, (s.lamp a).station = some st → (s.lamp b).station = some st → a = b) :
    LampBooks s.refreshAtStart := by
  -- the records as the start leaves them
  have key (bs : List Nat) (t : State) : (bs.foldl State.startLamp t).line = t.line ∧
      (bs.foldl State.startLamp t).lampQueue = t.lampQueue ∧
      (∀ c, ((bs.foldl State.startLamp t).lamp c).station = (t.lamp c).station) ∧
      (∀ c, c ∈ bs ∨ (t.lamp c).state = .settled →
        ((bs.foldl State.startLamp t).lamp c).state = .settled) := by
    induction bs generalizing t with
    | nil => exact ⟨rfl, rfl, fun _ => rfl, fun c h => h.resolve_left (by simp)⟩
    | cons b rest ih =>
      obtain ⟨h1, h2, h3, h4⟩ := ih (t.startLamp b)
      have lb : (t.startLamp b).lamp b = _ := t.lamp_onLamp b _
      have lo (c : Nat) (e : c ≠ b) : (t.startLamp b).lamp c = t.lamp c := t.lamp_onLamp_other _ e
      refine ⟨h1, h2, fun c => ?_, fun c hc => h4 c ?_⟩
      · rw [List.foldl_cons, h3]
        by_cases e : c = b
        · subst e; rw [lb]
        · rw [lo c e]
      · by_cases e : c = b
        · subst e; right; rw [lb]; rfl
        · rw [lo c e]
          exact hc.imp (fun m => (List.mem_cons.1 m).resolve_left e) id
  obtain ⟨h1, h2, h3, h4⟩ := key (s.lamps.keys ++ s.assignedBoxes) { s with lampQueue := [] }
  unfold State.refreshAtStart
  dsimp only
  have wt : ((s.lamps.keys ++ s.assignedBoxes).foldl State.startLamp
      { s with lampQueue := [] }).lamps.wf Lamp.unmapped = true :=
    (Changes.foldl (P := ⟨true, true, true, true, true, true, true, true, true⟩)
      (fun t b => t.onLamp_changes rfl b _) _ _).lampsWf w
  set t := (s.lamps.keys ++ s.assignedBoxes).foldl State.startLamp { s with lampQueue := [] } with ht
  have settled (c : Nat) : (t.lamp c).state = .settled := by
    by_cases m : c ∈ s.lamps.keys
    · exact h4 c (.inl (List.mem_append_left _ m))
    · refine h4 c (.inr ?_)
      have : s.lamps.find c = none := by
        cases e : s.lamps.find c with
        | none => rfl
        | some v => exact absurd (List.mem_map.2 ⟨_, rowFind_mem e, rfl⟩) m
      change (s.lamps.read Lamp.unmapped c).state = _
      unfold Table.read; rw [this]; rfl
  have books : LampBooks t := by
    refine ⟨?_, fun c => ?_, fun c h => ?_, fun o m c h => ?_, fun c _ => settled c, fun a c st x y => ?_⟩
    · rw [h2]; exact .nil
    · rw [h2, settled]; simp
    · rw [settled] at h; cases h
    · rw [h1] at m; rw [ho o m] at h; cases h
    · rw [h3] at x y; exact ha a c st x y
  have srt := wt
  simp only [Table.wf, Bool.and_eq_true] at srt
  refine books.joinAll _ (Table.select_nodup _ srt.1) fun b hb => ?_
  obtain ⟨v, e, k⟩ := (Table.mem_select srt.1 b).1 hb
  refine ⟨by rw [settled]; simp, by rw [settled]; simp, fun n => ?_⟩
  unfold State.lamp Table.read at n
  rw [e] at n
  simp only [Option.getD_some] at n
  simp [n] at k

end Sys2Proof.Machine
end

