-- ==== Sys2Proof/Tests/Slice0.lean ====
section
/-! SUPPORT. Tests: an ill-formed command for each check of WellFormed, a witness for the hypotheses of
each statement, and small checks of single steps with their expected values from the manual. -/

namespace Sys2Proof.Tests

open Sys2Proof.Machine

/-! ## Ill-formed commands are refused -/

theorem test_tag_too_wide : Instr.wellFormed (.status 256) = false := by decide
theorem test_one_byte_field : Instr.wellFormed (.noticeMask 0 256) = false := by decide
theorem test_two_byte_field : Instr.wellFormed (.cacheQuery 0 65536) = false := by decide
theorem test_four_byte_field : Instr.wellFormed (.blockQuery 0 4294967296) = false := by decide
theorem test_box_index : Instr.wellFormed (.boxClear 0 (.index 65536)) = false := by decide
theorem test_box_form : Instr.wellFormed (.boxClear 0 (.unknown 1)) = false := by decide
theorem test_ext_too_long :
    Instr.wellFormed (.boxClear 0 (.ext [1, 2, 3, 4, 5, 6, 7])) = false := by decide
theorem test_ext_character : Instr.wellFormed (.boxAssign 0 [256] 0 0) = false := by decide
theorem test_segment_message :
    Instr.wellFormed (.play 0 0 [.message (.index 0) 256 0 0]) = false := by decide
theorem test_segment_greeting : Instr.wellFormed (.play 0 0 [.greeting (.index 0) 256]) = false := by
  decide
theorem test_segment_prompt : Instr.wellFormed (.play 0 0 [.prompt 65536]) = false := by decide
theorem test_segment_recording : Instr.wellFormed (.play 0 0 [.recording 0 65536]) = false := by decide
theorem test_segment_silence : Instr.wellFormed (.interject 0 0 [.silence 65536]) = false := by decide
theorem test_segment_kind : Instr.wellFormed (.play 0 0 [.unknown 5]) = false := by decide
theorem test_segment_count :
    Instr.wellFormed (.play 0 0 (List.replicate 256 .tone)) = false := by decide +kernel
theorem test_target_box : Instr.wellFormed (.record 0 0 (.box [] 0 (some [256])) 0) = false := by decide
theorem test_target_greeting : Instr.wellFormed (.record 0 0 (.greeting (.index 0) 256) 0) = false := by
  decide
theorem test_target_prompt : Instr.wellFormed (.record 0 0 (.prompt 65536) 0) = false := by decide
theorem test_target_list : Instr.wellFormed (.record 0 0 (.list 256 0) 0) = false := by decide
theorem test_target_code : Instr.wellFormed (.record 0 0 (.unknown 3) 0) = false := by decide
theorem test_scope_shelf : Instr.wellFormed (.lampRefresh 0 (.shelf 256)) = false := by decide
theorem test_scope_box : Instr.wellFormed (.lampRefresh 0 (.box (.unknown 0))) = false := by decide
theorem test_scope_code : Instr.wellFormed (.lampRefresh 0 (.unknown 2)) = false := by decide
theorem test_insert_rate : Instr.wellFormed (.testInsert 0 0 (.rate 256)) = false := by decide
theorem test_insert_code : Instr.wellFormed (.testInsert 0 0 (.unknown 2)) = false := by decide
theorem test_profile_fields :
    Instr.wellFormed (.profileSet 0 0 ⟨256, 0, 0, 0, 0, 0, 0, 0⟩) = false := by decide
theorem test_threshold_count : Instr.wellFormed (.levelSet 0 (List.replicate 14 0)) = false := by decide
theorem test_ramp_count : Instr.wellFormed (.rampSet 0 [] (List.replicate 8 0)) = false := by decide
theorem test_unknown_body_length :
    Instr.wellFormed (.unknownKindRequest 0 0 (List.replicate 1021 0)) = false := by
  decide +kernel
theorem test_frame_slot :
    Instr.wellFormed (.frameTime [(128, List.replicate 160 0)]) = false := by
  decide +kernel
theorem test_frame_samples : Instr.wellFormed (.frameTime [(0, [])]) = false := by decide
theorem test_frame_slot_twice : Instr.wellFormed
    (.frameTime [(0, List.replicate 160 0), (0, List.replicate 160 0)]) = false := by
  decide +kernel
theorem test_event_port : Instr.wellFormed (.stopFadeEnd 32) = false := by decide
theorem test_event_line : Instr.wellFormed (.fillCompletion 2048 .succeeded) = false := by decide
theorem test_event_box : Instr.wellFormed (.settleTimerExpiry 16384) = false := by decide
theorem test_event_shelf_zero : Instr.wellFormed (.ackTimerExpiry 0) = false := by decide
theorem test_event_shelf_high : Instr.wellFormed (.pauseExpiry 65) = false := by decide
theorem test_shelf_frame_number : Instr.wellFormed (.ackDone 1 8) = false := by decide
theorem test_shelf_pause_time : Instr.wellFormed (.shelfPause 1 0 256) = false := by decide
theorem test_shelf_station : Instr.wellFormed (.stationFault 1 0 256) = false := by decide

/-! ## Small states -/

/-- An ACTIVE STUDENT box with extension 111, one NEW message and a standard greeting. -/
def boxA : Box :=
  { Box.unassigned with
    state := .active, ext := [0x31, 0x31, 0x31], messages := [0], newCount := 1, charged := 16,
    standard := some 0 }

/-- An ACTIVE STAFF box with extension 222, with nothing in it. -/
def boxB : Box := { Box.unassigned with state := .active, ext := [0x32, 0x32, 0x32], cls := .staff }

/-- A SEALED FULL recording of 16 frames in block 0, with `n` references. -/
def recordingOf (n : Nat) : Recording :=
  { state := .sealed, coding := .full, head := 0, tail := 0, blocks := 1, frames := 16, limit := 6000,
    references := n, peakClass := 8, trimmed := 0, created := none, origin := none,
    purpose := .box 0, cut := false, discard := false }

/-- The message of box 0 for recording 0. -/
def entryA : Entry := ⟨0, 0, .new, false, .caller, none, none, none, none⟩

/-- A RUNNING module with two boxes, a message, a list of both boxes, and a prompt. -/
def base : State :=
  { State.reset with dir := { State.reset.dir with
    pool := ⟨[⟨1, 262143⟩]⟩
    blocks := ⟨[(0, .chained 0 none)]⟩
    recordings := ⟨[(0, recordingOf 3)]⟩
    boxes := ⟨[(0, boxA), (1, boxB)]⟩
    entries := ⟨[(0, entryA)]⟩
    prompts := ⟨[(511, 0)]⟩
    lists := ⟨[(255, [0, 1])]⟩ } }

/-- The base with port 31 holding `q`. -/
def withPort (q : Port) : State := base.setPort 31 q

/-- A port that is IDLE on slot 127. -/
def idlePort : Port := { Port.cold with state := .idle, slot := some 127 }

/-- A segment that plays recording 0. -/
def segA : Segment := ⟨.recording, some 0, 0, 16, false⟩

/-- A port that plays a plain list of recording 0. -/
def playing : Port := { idlePort with state := .playing, level := some ⟨1, [segA], 0⟩ }

/-- The module in the STARTING of a cause. -/
def starting (c : StartCause) : State := { State.reset with module := .starting c }

/-- A module with an unsent reply. -/
def answering : State := State.reset.answered 1 0 []

/-- The state that a step answers. -/
def after : Host.Outcome State Fault Refusal → State
  | .next t => t
  | .fault _ => State.reset
  | .refused _ => State.reset

/-- Bytes from numbers. -/
def bytes (l : List Nat) : List Byte := l.map byteOf

theorem base_ready : base.ready := ⟨rfl, rfl, rfl⟩

/-! ## Witnesses: starting and the control link -/

/-- Meets hypotheses of `Obligations.StepTakesFrontCommand`. -/
theorem witness_step_idle : State.reset.pending = [] := rfl

/-- Meets hypotheses of `Obligations.LostDirectoryStartsAsReset`. -/
theorem witness_lost_directory :
    (false && State.reset.dir.signature) = false ∧
    (true && { State.reset.dir with signature := false }.signature) = false := ⟨rfl, rfl⟩

/-- Meets hypotheses of `Obligations.ColdStartRecoversDirectory`. -/
theorem witness_cold_start : base.dir.signature = true := rfl

/-- Meets hypotheses of `Obligations.WarmRestartRecovers`. -/
theorem witness_warm_restart :
    (starting .warm).module = .starting .warm ∧ (starting .warm).link.receiveQueue = [] ∧
    { starting .warm with link := { Link.cold false with receiveQueue := [⟨1, 0, []⟩] } }.link.receiveQueue
      ≠ [] := ⟨rfl, rfl, nofun⟩

/-- A request that waits when the recovery is due is still refused with STARTING, and STARTED comes
behind its refusal (R182). -/
theorem test_waiting_request_before_started :
    (let s := { starting .warm with link := { Link.cold false with
        receiveQueue := [⟨0x31, 7, []⟩], fifo := [.accepted 2 0 []] } }
     let t := after (exec .transmitFrameDone (after (exec .warmRestartRecovery s)))
     let u := after (exec .warmRestartRecovery t)
     t.link.fifo = [.refused 0x31 7 .starting 0] ∧ t.running = false ∧ u.running = true ∧
     u.link.fifo.head? = some (.refused 0x31 7 .starting 0) ∧ u.link.fifo.length = 2) := by
  decide +kernel

/-- Meets hypotheses of `Obligations.FormatEmptiesStore`. -/
theorem witness_format_run :
    (starting .format).module = .starting .format ∧ (starting .format).dir.canonical :=
  ⟨rfl, rfl, rfl, rfl, rfl, rfl, rfl, rfl⟩

/-- A link with `n` frames waiting. -/
def waiting (n : Nat) : State :=
  { State.reset with link := { State.reset.link with receiveQueue := List.replicate n ⟨0, 0, []⟩ } }

/-- Meets hypotheses of `Obligations.ControlBytesFormFrames`. -/
theorem witness_frame_bytes :
    (waiting 7).link.framer = .hunting ∧ 255 < 256 ∧
    (List.replicate 1020 (0 : Byte)).length ≤ Config.maxBody ∧
    (waiting 7).link.receiveQueue.length < Config.receiveQueueSize ∧
    Config.receiveQueueSize ≤ (waiting 8).link.receiveQueue.length ∧
    (1 : Byte) ≠ (linkFrame 0 0 []).getLastD 0 := by
  refine ⟨rfl, by decide, by decide +kernel, by decide, by decide, by decide⟩

/-- Meets hypotheses of `Obligations.LinkEventsMoveFrames`. -/
theorem witness_link_events :
    State.reset.link.framer = .hunting ∧ 1020 < 256 * (3 : Byte).toNat + (253 : Byte).toNat ∧
    ({ State.reset.link with framer := .collecting [] } : Link).framer = .collecting [] := by decide

/-- Meets hypotheses of `Obligations.RequestsWaitOrAreRefused`. -/
theorem witness_requests_refused :
    requestFrame (.restart 255) = some (0x02, 255, []) ∧ 0x02 ≠ 0x01 ∧
    (starting .cold).running = false ∧ (starting .cold).link.clear ∧
    answering.link.receiveQueue = [] ∧ answering.link.replyUnsent = true ∧
    State.reset.link.clear ∧ isRequestKind 0x60 = false ∧ isRequestKind 0x5F = true :=
  ⟨rfl, by decide, rfl, ⟨rfl, rfl⟩, rfl, rfl, ⟨rfl, rfl⟩, rfl, rfl⟩

/-- A module with a STATUS waiting in front of another frame. -/
def queuedStatus : State :=
  { State.reset with link := { State.reset.link with receiveQueue := [⟨1, 255, []⟩, ⟨1, 0, []⟩] } }

/-- Meets hypotheses of `Obligations.EveryRequestAnsweredOnce`. -/
theorem witness_answered_once :
    requestFrame (.status 255) = some (1, 255, []) ∧ Instr.wellFormed (.status 255) = true ∧
    State.reset.link.replyUnsent = false ∧ State.reset.link.receiveQueue = [] ∧
    queuedStatus.link.replyUnsent = false ∧
    queuedStatus.link.receiveQueue = ⟨1, 255, []⟩ :: [⟨1, 0, []⟩] := by decide

/-- Meets hypotheses of `Obligations.RequestBytesRoundTrip`. -/
theorem witness_round_trip :
    Instr.wellFormed (.play 255 255 (List.replicate 16 .tone)) = true ∧
    (requestFrame (.play 255 255 (List.replicate 16 .tone))).isSome = true ∧
    Instr.wellFormed (.interject 0 0 (List.replicate 17 .tone)) = true ∧
    (requestFrame (.interject 0 0 (List.replicate 17 .tone))).isSome = true ∧
    Instr.wellFormed (.play 0 0 []) = true ∧ (requestFrame (.play 0 0 [])).isSome = true := by decide

/-- Meets hypotheses of `Obligations.StatusReportsAndClears`. -/
theorem witness_status : State.reset.link.clear := ⟨rfl, rfl⟩

/-- A link with `n` unsent notices and a mask. -/
def noticing (n mask : Nat) : Link :=
  { State.reset.link with fifo := List.replicate n startedAtReset, mask := mask }

/-- Meets hypotheses of `Obligations.NoticesFollowMask`. -/
theorem witness_notices :
    State.reset.ready ∧ 255 < 256 ∧ maskEnables (noticing 0 128).mask .portDone = false ∧
    maskEnables (noticing 63 255).mask .started = true ∧
    (noticing 63 255).noticeCount < Config.noticeQueueSize ∧
    maskEnables (noticing 64 255).mask .portDone = true ∧
    Config.noticeQueueSize ≤ (noticing 64 255).noticeCount :=
  ⟨⟨rfl, rfl, rfl⟩, by decide, rfl, rfl, by decide, rfl, by decide⟩

/-- An active DELIVER at a cursor. -/
def jobAt (c : Cursor) : Job := ⟨0, 0, some 255, true, c, 0, 0, 0, 0⟩

/-- Meets hypotheses of `Obligations.RestartAndFormatEnterStarting`. -/
theorem witness_restart_format :
    State.reset.ready ∧ State.reset.dir.canonical ∧ State.reset.cache.canonical ∧
    (∀ p, (State.reset.port p).state = .free ∨ (State.reset.port p).state = .idle) ∧
    State.reset.jobs = [] ∧
    (∃ p, ((withPort playing).port p).state ≠ .free ∧ ((withPort playing).port p).state ≠ .idle) ∧
    (withPort playing).ready ∧ ({ base with jobs := [jobAt .finished] } : State).jobs ≠ [] :=
  ⟨⟨rfl, rfl, rfl⟩, ⟨rfl, rfl, rfl, rfl, rfl, rfl, rfl⟩, ⟨rfl, rfl⟩, fun _ => .inl rfl, rfl,
    ⟨31, by decide, by decide⟩, ⟨rfl, rfl, rfl⟩, by decide⟩

/-! ## Witnesses: the block store and the cache -/

/-- Meets hypotheses of `Obligations.FreedBlockDrainsOrPools`. -/
theorem witness_pool : (⟨[⟨5, 1⟩]⟩ : Pool).take = some (5, ⟨[]⟩) := rfl

/-- The base with line 0 holding `l`, and an operation in flight. -/
def withLine (l : Line) (op : Option FlashOp) : State :=
  { base with cache := { Cache.cold with lines := ⟨[(0, l)]⟩, inFlight := op } }

/-- Meets hypotheses of `Obligations.FreedBlockDrainsOrPools`. -/
theorem witness_freed_block :
    (withLine ⟨.writing, some 0, false, []⟩ none).cache.lineOf 0 = some 0 ∧
    ((withLine ⟨.writing, some 0, false, []⟩ none).cache.line 0).state = .writing ∧
    base.cache.lineOf 0 = none := by decide

/-- The base with block 0 DRAINING and its write in flight. -/
def draining : State :=
  { withLine ⟨.writing, some 0, true, []⟩ (some ⟨true, 0, 0⟩) with
    dir := { base.dir with blocks := ⟨[(0, .draining)]⟩, recordings := ⟨[]⟩ } }

/-- Meets hypotheses of `Obligations.WriteCompletionStoresBlock`. -/
theorem witness_write_completion :
    (withLine ⟨.writing, some 0, false, []⟩ (some ⟨true, 0, 0⟩)).running = true ∧
    (withLine ⟨.writing, some 0, false, []⟩ (some ⟨true, 0, 0⟩)).cache.inFlight =
      some ⟨true, 0, 0⟩ ∧
    (withLine ⟨.writing, some 0, false, []⟩ (some ⟨true, 0, 0⟩)).cache.quiet ∧
    base.dir.block 0 = some (.chained 0 none) ∧
    (withLine ⟨.writing, some 0, false, []⟩ none).cache.line 0 = ⟨.writing, some 0, false, []⟩ ∧
    (∀ v, base.recording 0 = some v → v.state ≠ .sealing) ∧
    draining.dir.block 0 = some .draining ∧ draining.cache.line 0 = ⟨.writing, some 0, true, []⟩ ∧
    (∀ op, base.cache.inFlight = some op → op.write = false ∨ op.line ≠ 0) :=
  ⟨rfl, rfl, ⟨rfl, rfl, rfl, rfl⟩, rfl, rfl, fun v h => by cases h; decide, rfl, rfl, nofun⟩

/-- Meets hypotheses of `Obligations.FailedWriteRemapsBlock`. -/
theorem witness_failed_write :
    (withLine ⟨.writing, some 0, false, []⟩ (some ⟨true, 0, 0⟩)).running = true ∧
    (withLine ⟨.writing, some 0, false, []⟩ (some ⟨true, 0, 0⟩)).cache.waitQueue = [] ∧
    (withLine ⟨.writing, some 0, false, []⟩ (some ⟨true, 0, 0⟩)).cache.lineOf 0 = some 0 ∧
    base.dir.block 0 = some (.chained 0 none) ∧ base.recording 0 = some (recordingOf 3) ∧
    base.dir.pool.take = some (1, ⟨[⟨2, 262142⟩]⟩) ∧ base.dir.block 1 = none := by decide

/-- Meets hypotheses of `Obligations.FillEndsCleanOrError`. -/
theorem witness_fill_ends :
    (withLine ⟨.filling, some 0, false, []⟩ (some ⟨false, 0, 0⟩)).running = true ∧
    (withLine ⟨.filling, some 0, false, []⟩ (some ⟨false, 0, 0⟩)).cache.inFlight =
      some ⟨false, 0, 0⟩ ∧
    (withLine ⟨.filling, some 0, false, []⟩ (some ⟨false, 0, 0⟩)).cache.quiet ∧
    (withLine ⟨.filling, some 0, false, []⟩ none).cache.line 0 = ⟨.filling, some 0, false, []⟩ ∧
    (∀ p, (base.port p).state ≠ .playing) ∧ base.cache.inFlight = none :=
  ⟨rfl, rfl, ⟨rfl, rfl, rfl, rfl⟩, rfl, fun _ => by show PortState.free ≠ _; decide, rfl⟩

/-- A cache with 1,536 MODIFIED lines. -/
def pressed : Cache :=
  { Cache.cold with
    lines := ⟨(List.range 1536).map fun n => (n, ⟨.modified, some n, false, []⟩)⟩
    writeQueue := [0], urgentQueue := [1] }

/-- Meets hypotheses of `Obligations.SchedulerChoosesByPressure`. -/
theorem witness_scheduler :
    pressed.inFlight = none ∧ 1536 ≤ pressed.unwritten ∧ pressed.writeQueue = 0 :: [] ∧
    Cache.cold.unwritten < 1536 ∧ ({ Cache.cold with urgentQueue := [1] } : Cache).urgentQueue = [1] ∧
    Cache.cold.urgentQueue = [] ∧ ({ Cache.cold with writeQueue := [1] } : Cache).writeQueue = [1] ∧
    Cache.cold.writeQueue = [] ∧ ({ Cache.cold with fillQueue := [1] } : Cache).fillQueue = [1] := by
  exact ⟨rfl, by decide +kernel, rfl, by decide, rfl, rfl, rfl, rfl, rfl⟩

/-- Meets hypotheses of `Obligations.AllocationTakesLowestOrOldest`. -/
theorem witness_allocation : Cache.cold.allocatable = some 0 := rfl

/-- The base with recording 65,535 in state `st`. -/
def lastRecording (st : RecState) : State :=
  { base with dir := { base.dir with recordings := ⟨[(65535, { recordingOf 1 with state := st })]⟩ } }

/-- Meets hypotheses of `Obligations.StoreQueriesReport`. -/
theorem witness_store_queries :
    base.ready ∧ 262143 < Config.numBlocks ∧ Config.numBlocks ≤ 262144 ∧ 2047 < Config.numLines ∧
    Config.numLines ≤ 2048 ∧ 65535 < Config.numRecordings ∧
    (lastRecording .sealed).recording 65535 = some { recordingOf 1 with state := .sealed } ∧
    (∀ v, (lastRecording .opened).recording 65535 = some v → v.state ≠ .sealed) ∧
    Config.numRecordings ≤ 65536 :=
  ⟨base_ready, by decide, by decide, by decide, by decide, by decide, rfl,
    fun v h => by cases h; decide, by decide⟩

/-- The base with recording 0 referred to once. -/
def once : State := base.setRecording 0 (recordingOf 1)

/-- Meets hypotheses of `Obligations.ClearingReleasesRecording`. -/
theorem witness_clearing :
    base.ready ∧ once.ready ∧ 511 < Config.numPrompts ∧ base.dir.prompts.find 510 = none ∧
    base.dir.prompts.find 511 = some 0 ∧ base.recording 0 = some (recordingOf 3) ∧
    1 < (recordingOf 3).references ∧ once.dir.prompts.find 511 = some 0 ∧
    once.recording 0 = some (recordingOf 1) ∧ (recordingOf 1).references = 1 ∧
    Config.numPrompts ≤ 512 ∧ base.dir.resolve (.index 0) = .ok 0 ∧
    greetingSlotOf 3 = some .name ∧ (base.box 0).greeting .name = none ∧
    greetingSlotOf 0 = some .standard ∧ (base.box 0).greeting .standard = some 0 ∧
    once.dir.resolve (.index 0) = .ok 0 ∧ (once.box 0).greeting .standard = some 0 :=
  ⟨base_ready, ⟨rfl, rfl, rfl⟩, by decide, rfl, rfl, rfl, by decide, rfl, rfl, rfl, by decide, rfl,
    rfl, rfl, rfl, rfl, rfl, rfl⟩

/-! ## Witnesses: boxes, messages and accounting -/

/-- Meets hypotheses of `Obligations.BoxAssignTakesLowest`. -/
theorem witness_box_assign :
    State.reset.ready ∧ boxClassOf 3 = some .service ∧ boxStateOf 2 = some .suspended ∧
    BoxState.suspended ≠ .unassigned ∧ extValid [0x30, 0x39, 0x35] = true ∧
    State.reset.dir.boxOfExt [0x30, 0x39, 0x35] = none ∧ 0 < Config.numBoxes ∧
    (State.reset.box 0).state = .unassigned ∧
    (∀ a, a < 0 → (State.reset.box a).state ≠ .unassigned) ∧
    extValid [0x31, 0x31, 0x31] = true ∧ base.dir.boxOfExt [0x31, 0x31, 0x31] = some 0 ∧
    extValid [0x31, 0x31] = false ∧ base.ready :=
  ⟨⟨rfl, rfl, rfl⟩, rfl, rfl, by decide, rfl, rfl, by decide, rfl, fun a h => absurd h (Nat.not_lt_zero a), rfl,
    rfl, rfl, base_ready⟩

/-- Meets hypotheses of `Obligations.BoxSettingsChangeBoxAlone`. -/
theorem witness_box_settings :
    base.ready ∧ base.dir.resolve (.ext [0x31, 0x31, 0x31]) = .ok 0 ∧
    boxClassOf 3 = some .service ∧ boxStateOf 2 = some .suspended ∧ BoxState.suspended ≠ .unassigned ∧
    extValid [0x33, 0x33, 0x33, 0x33, 0x33, 0x33] = true ∧
    (∀ a, base.dir.boxOfExt [0x33, 0x33, 0x33, 0x33, 0x33, 0x33] = some a → a = 0) :=
  ⟨base_ready, rfl, rfl, rfl, by decide, rfl, nofun⟩

/-- The base with recording 0 being recorded as the NAME greeting of box 0. -/
def recordingGreeting : State :=
  base.setRecording 0 { recordingOf 3 with state := .opened, purpose := .greeting 0 .name }

/-- The base with a deposit pending in box 0. -/
def pendingDeposit : State := base.setBox 0 { boxA with pendingDeposits := 1 }

/-- Meets hypotheses of `Obligations.BoxClearEmptiesBox`. -/
theorem witness_box_clear :
    base.ready ∧ base.dir.canonical ∧ base.cache.canonical ∧ base.dir.resolve (.index 0) = .ok 0 ∧
    (base.box 0).pendingDeposits = 0 ∧
    (∀ r v g, base.recording r = some v → v.purpose = .greeting 0 g → v.state = .sealed) ∧
    base.dir.resolve (.index 2) = .error (.noBox, 0) ∧
    pendingDeposit.ready ∧ pendingDeposit.dir.resolve (.index 0) = .ok 0 ∧
    (pendingDeposit.box 0).pendingDeposits ≠ 0 ∧
    recordingGreeting.recording 0 = some { recordingOf 3 with state := .opened, purpose := .greeting 0 .name } :=
  ⟨base_ready, ⟨rfl, rfl, rfl, rfl, rfl, rfl, rfl⟩, ⟨rfl, rfl⟩, rfl, rfl, fun r v g h k => by
    by_cases e : 0 = r
    · subst e; cases h; cases k
    · simp [base, State.recording, Table.find, rowFind, e] at h, rfl, ⟨rfl, rfl, rfl⟩, rfl,
    by decide, rfl⟩

/-- Meets hypotheses of `Obligations.BoxAssignTakesLowest`: how a box is named, and no box left. -/
theorem witness_box_names :
    base.dir.canonical ∧ Config.numBoxes ≤ 16384 ∧ (base.dir.box 16383).state = .unassigned ∧
    (base.dir.box 0).state ≠ .unassigned ∧
    (∀ b, (base.dir.box b).ext = [0x39, 0x39, 0x39] → (base.dir.box b).state = .unassigned) ∧
    (∀ a, (base.dir.box a).ext = [0x31, 0x31, 0x31] → (base.dir.box a).state ≠ .unassigned → a = 0) := by
  have read (b : Nat) (h0 : ¬0 = b) (h1 : ¬1 = b) : base.dir.box b = Box.unassigned := by
    show Table.read Box.unassigned ⟨[(0, boxA), (1, boxB)]⟩ b = _
    simp [Table.read, Table.find, rowFind, h0, h1]
  refine ⟨⟨rfl, rfl, rfl, rfl, rfl, rfl, rfl⟩, by decide, by decide, by decide, fun b h => ?_,
    fun a h k => ?_⟩
  · by_cases e : 0 = b
    · subst e; exact absurd h (by decide)
    · by_cases f : 1 = b
      · subst f; exact absurd h (by decide)
      · rw [read b e f]; rfl
  · by_cases e : 0 = a
    · exact e.symm
    · by_cases f : 1 = a
      · subst f; exact absurd h (by decide)
      · rw [read a e f] at k; exact absurd rfl k

/-- A directory whose first `n` boxes are assigned. -/
def fullTable (n : Nat) : Directory := { base.dir with boxes := ⟨(List.range n).map fun b => (b, boxA)⟩ }

/-- Meets hypotheses of `Obligations.BoxAssignTakesLowest`: no box is left. -/
theorem witness_boxes_full (n : Nat) : (fullTable n).boxOfExt [0x30, 0x31, 0x32] = none ∧
    ∀ b, b < n → ((fullTable n).box b).state ≠ .unassigned := by
  refine ⟨?_, fun b hb => ?_⟩
  · have none (l : List Nat) : (l.map fun b => (b, boxA)).find?
        (fun r => r.2.state != .unassigned && r.2.ext == [0x30, 0x31, 0x32]) = none := by
      rw [List.find?_eq_none]
      intro x hx
      obtain ⟨b, -, rfl⟩ := List.mem_map.mp hx
      simp [boxA]
    show Option.map _ _ = _
    rw [show (fullTable n).boxes.rows = (List.range n).map fun b => (b, boxA) from rfl, none]
    rfl
  · have row (l : List Nat) (h : b ∈ l) : rowFind (l.map fun b => (b, boxA)) b = some boxA := by
      induction l with
      | nil => cases h
      | cons c rest ih =>
        by_cases e : c = b
        · simp [rowFind, e]
        · simp only [List.map_cons, rowFind, e, if_false]
          exact ih ((List.mem_cons.mp h).resolve_left fun k => e k.symm)
    have k : (fullTable n).box b = boxA := by
      show (rowFind ((List.range n).map fun b => (b, boxA)) b).getD _ = _
      rw [row _ (List.mem_range.mpr hb)]
      rfl
    rw [k]
    decide

/-- Meets hypotheses of `Obligations.BoxClearEmptiesBox`. -/
theorem witness_base_tables_canonical :
    base.flash.wf unwrittenPayload = true ∧ base.ports.wf Port.cold = true ∧
    base.lamps.wf Lamp.unmapped = true ∧ base.line.shelves.wf Shelf.cold = true := ⟨rfl, rfl, rfl, rfl⟩

/-- Meets hypotheses of `Obligations.BoxReadsReport`. -/
theorem witness_box_reads :
    base.ready ∧ base.dir.resolve (.index 0) = .ok 0 ∧ boxClassOf 0 = some .student ∧
    255 < Config.numLists ∧ 1 ≤ 1 ∧ base.members 255 = some [0, 1] :=
  ⟨base_ready, rfl, rfl, by decide, by decide, rfl⟩

/-- Meets hypotheses of `Obligations.ProfileSetClamps`. -/
theorem witness_profile_set :
    boxClassOf 3 = some .service ∧ codingOf 1 = some .compact ∧ flagOf 1 = some true ∧
    boxClassOf 4 = none ∧ codingOf 2 = none ∧ flagOf 2 = none := by decide

/-- Meets hypotheses of `Obligations.MarkMovesEntry`. -/
theorem witness_mark :
    base.ready ∧ base.dir.resolve (.index 0) = .ok 0 ∧ 1 ≤ 1 ∧ 1 ≤ Config.maxMessages ∧
    (base.box 0).messages[1 - 1]? = some 0 ∧ base.entry 0 = some entryA ∧ entryA.box = 0 ∧
    msgStateOf 0 = some .new ∧ entryA.state = .new ∧ msgStateOf 2 = some .kept ∧
    entryA.state ≠ .kept :=
  ⟨base_ready, rfl, by decide, by decide, rfl, rfl, rfl, rfl, rfl, rfl, by decide⟩

/-- Meets hypotheses of `Obligations.DeleteRemovesEntry`. -/
theorem witness_delete :
    base.ready ∧ base.dir.resolve (.index 0) = .ok 0 ∧ (base.box 0).messages[1 - 1]? = some 0 ∧
    base.entry 0 = some entryA ∧ entryA.box = 0 ∧ base.recording entryA.recording = some (recordingOf 3) ∧
    1 ≤ (recordingOf 3).references ∧ once.recording entryA.recording = some (recordingOf 1) ∧
    1 ≤ (recordingOf 1).references ∧ once.entry 0 = some entryA :=
  ⟨base_ready, rfl, rfl, rfl, rfl, rfl, by decide, rfl, by decide, rfl⟩

/-- Meets hypotheses of `Obligations.ForwardCreatesEntry`. -/
theorem witness_forward :
    base.ready ∧ base.dir.resolve (.index 0) = .ok 0 ∧ (base.box 0).messages[1 - 1]? = some 0 ∧
    base.entry 0 = some entryA ∧ base.recording entryA.recording = some (recordingOf 3) ∧
    (recordingOf 3).references < Config.maxRefs ∧ base.dir.resolve (.index 1) = .ok 1 ∧
    (base.box 1).state = .active ∧
    (base.box 1).messages.length + (base.box 1).pendingDeposits < (base.dir.profile 1).maxMessages ∧
    (base.box 1).charged + (base.box 1).reserved + (recordingOf 3).frames ≤
      (base.dir.profile 1).quota * 50 ∧
    base.dir.entryFor 1 entryA.recording = none ∧
    base.dir.entries.lowestFree Config.numEntries = some 1 :=
  ⟨base_ready, rfl, rfl, rfl, rfl, by decide, rfl, rfl, by decide, by decide, rfl, rfl⟩

/-- Meets hypotheses of `Obligations.MarkMovesEntry`, `Obligations.DeleteRemovesEntry` and
`Obligations.ForwardCreatesEntry`: what is refused. -/
theorem witness_message_refusals :
    msgStateOf 3 = none ∧ base.dir.resolve (.index 16383) = .error (.noBox, 0) ∧
    base.dir.resolve (.ext [0x31, 0x31]) = .error (.range, 0) ∧ 48 < 49 ∧
    (base.box 0).messages.length < 2 ∧ 2 ≤ 48 ∧
    ((base.setBox 1 { boxB with state := .suspended }).box 1).state = .suspended ∧
    (base.box 1).state ≠ .suspended ∧
    ((base.setBox 1 { boxB with pendingDeposits := 48 }).dir.profile 1).maxMessages ≤
      ((base.setBox 1 { boxB with pendingDeposits := 48 }).box 1).messages.length +
        ((base.setBox 1 { boxB with pendingDeposits := 48 }).box 1).pendingDeposits ∧
    ((base.setBox 1 { boxB with charged := 360000 }).dir.profile 1).quota * 50 <
      ((base.setBox 1 { boxB with charged := 360000 }).box 1).charged +
        ((base.setBox 1 { boxB with charged := 360000 }).box 1).reserved + (recordingOf 3).frames ∧
    (∃ f ∈ (base.box 0).messages, ∃ x, base.entry f = some x ∧ x.recording = entryA.recording) ∧
    Config.maxRefs ≤ (recordingOf 16383).references := by
  refine ⟨rfl, rfl, rfl, by decide, by decide, by decide, rfl, by decide, by decide, by decide,
    ⟨0, by decide, entryA, rfl, rfl⟩, by decide⟩

/-- A directory whose box 0 is full by count, and one whose box 0 has 249 or 250 frames remaining. -/
def fullBox : Directory :=
  { base.dir with boxes := ⟨[(0, { boxA with messages := List.range 30, urgentNew := 1 })]⟩ }

/-- A directory whose box 0 has been charged `n` frames. -/
def charged (n : Nat) : Directory := { base.dir with boxes := ⟨[(0, { boxA with charged := n })]⟩ }

/-- Meets hypotheses of `Obligations.WantedCadenceFollowsBox`. -/
theorem witness_wanted :
    (base.dir.box 2).state = .unassigned ∧ (base.dir.box 0).state ≠ .unassigned ∧
    0 < (base.dir.box 0).newCount ∧ 0 < (fullBox.box 0).urgentNew ∧
    fullBox.settings.fastForUrgent = true ∧ (base.dir.box 0).urgentNew = 0 ∧
    (fullBox.profile 0).maxMessages ≤ (fullBox.box 0).messages.length ∧
    ((((charged 29751).profile 0).quota * 50 : Nat) : Int) - ((charged 29751).box 0).charged -
      ((charged 29751).box 0).reserved < 250 ∧
    250 ≤ ((((charged 29750).profile 0).quota * 50 : Nat) : Int) - ((charged 29750).box 0).charged -
      ((charged 29750).box 0).reserved := by decide

/-- Meets hypotheses of `Obligations.AdmissionReservesAndSettles`. -/
theorem witness_admission :
    (base.dir.box 2).state ≠ .active ∧ (fullBox.box 0).state = .active ∧
    (fullBox.profile 0).maxMessages ≤ (fullBox.box 0).messages.length + (fullBox.box 0).pendingDeposits ∧
    ((charged 29751).box 0).messages.length + ((charged 29751).box 0).pendingDeposits <
      ((charged 29751).profile 0).maxMessages ∧
    (charged 29751).remaining 0 < 250 ∧ 250 ≤ (charged 29750).remaining 0 ∧
    ({ charged 29750 with poolLevel := .critical } : Directory).poolLevel = .critical ∧
    (charged 29750).poolLevel ≠ .critical := by decide

/-- Meets hypotheses of `Obligations.ToneEndOpensRecording`. -/
theorem witness_coding :
    ({ base.dir with poolLevel := .low } : Directory).poolLevel ≠ .normal ∧
    base.dir.poolLevel = .normal ∧ GreetingSlot.absence ≠ .name := by decide

/-! ## Witnesses: lists, jobs, the day clock and the sweep -/

/-- Meets hypotheses of `Obligations.ListRequestsChangeLists`. -/
theorem witness_lists :
    base.ready ∧ 255 < Config.numLists ∧ State.reset.ready ∧ State.reset.members 255 = none ∧
    base.members 255 = some [0, 1] ∧ base.dir.resolve (.index 1) = .ok 1 ∧ 1 ∈ [0, 1] ∧
    (base.setMembers 255 [0]).members 255 = some [0] ∧ (1 : Nat) ∉ [0] ∧
    [0].length < Config.maxMembers ∧ 0 < (base.setMembers 255 [0]).dir.freePlaces :=
  ⟨base_ready, by decide, ⟨rfl, rfl, rfl⟩, rfl, rfl, rfl, by decide, rfl, by decide, by decide, by decide⟩

/-- The base with `n` jobs queued. -/
def withJobs (n : Nat) : State := { base with jobs := List.replicate n (jobAt (.at 0)) }

/-- Meets hypotheses of `Obligations.JobRequestsQueueAndCancel`. -/
theorem witness_jobs :
    base.ready ∧ 0 < Config.numRecordings ∧ 255 < Config.numLists ∧
    base.recording 0 = some (recordingOf 3) ∧ (recordingOf 3).state = .sealed ∧
    base.members 255 = some [0, 1] ∧ (recordingOf 3).references < Config.maxRefs ∧ base.jobs = [] ∧
    (withJobs 7).jobs = jobAt (.at 0) :: List.replicate 6 (jobAt (.at 0)) ∧
    (jobAt (.at 0)).cursor ≠ .waiting ∧ (withJobs 7).jobs.length < Config.maxJobs ∧
    Config.maxJobs ≤ (withJobs 8).jobs.length ∧
    (withJobs 1).jobs.find? (fun k => k.number == 0) = some (jobAt (.at 0)) ∧
    (jobAt (.at 0)).recording = 0 ∧ 1 < (recordingOf 3).references ∧
    (withJobs 1).jobs.find? (fun k => k.number == 255) = none :=
  ⟨base_ready, by decide, by decide, rfl, rfl, rfl, by decide, rfl, rfl, by decide, by decide, by decide,
    rfl, rfl, by decide, rfl⟩

/-- The base with one job. -/
def withJob (j : Job) : State := { base with jobs := [j] }

/-- Meets hypotheses of `Obligations.JobStepServesMember`. -/
theorem witness_job_step :
    (withJob (jobAt (.at 2))).running = true ∧ (jobAt (.at 2)).list = some 255 ∧
    ((withJob (jobAt (.at 2))).box 2).state ≠ .active ∧
    ((withJob (jobAt (.at 1))).box 1).state = .active ∧
    ((withJob (jobAt (.at 1))).box 1).messages.length + ((withJob (jobAt (.at 1))).box 1).pendingDeposits <
      ((withJob (jobAt (.at 1))).dir.profile 1).maxMessages ∧
    (withJob (jobAt (.at 1))).dir.entryFor 1 0 = none ∧
    (withJob (jobAt (.at 1))).dir.entries.lowestFree Config.numEntries = some 1 ∧
    (withJob (jobAt .finished)).jobs = [jobAt .finished] ∧
    (withJob (jobAt .finished)).recording 0 = some (recordingOf 3) ∧ 1 < (recordingOf 3).references ∧
    ({ jobAt (.at 16382) with list := none } : Job).list = none ∧ 16382 + 1 < Config.numBoxes ∧
    (withJob { jobAt (.at 16382) with list := none }).dir.entryFor 16382 0 = none ∧
    (starting .warm).running = false ∧ base.jobs = [] := by
  refine ⟨rfl, rfl, by decide, rfl, by decide, rfl, rfl, rfl, rfl, by decide, rfl, by decide, rfl, rfl,
    rfl⟩

/-- Meets hypotheses of `Obligations.UnitReadsReport`. -/
theorem witness_unit_reads :
    base.ready ∧ base.dir.resolve (.index 0) = .ok 0 ∧ 1 ≤ 64 ∧ 64 ≤ 64 ∧ 64 < 65 :=
  ⟨base_ready, rfl, by decide, by decide, by decide⟩

/-- The base with its clock at a day and minute, and a pass at a cursor. -/
def atDay (d m : Nat) (cursor : Option Nat) : State :=
  { base with retention :=
    { base.retention with clock := some ⟨d, m⟩, cursor := cursor, sweepDay := some d } }

/-- Meets hypotheses of `Obligations.ClockMovesAndStartsPass`. -/
theorem witness_clock :
    (atDay 65535 0 none).ready ∧ (atDay 65535 0 none).day = some 65535 ∧ 65535 < 65536 ∧
    base.day ≠ some 65535 ∧ base.retention.cursor = none ∧
    (atDay 0 0 (some 0)).day ≠ some 65535 ∧ (atDay 0 0 (some 0)).retention.cursor = some 0 ∧
    base.retention.clock = none ∧ (atDay 0 1438 none).retention.clock = some ⟨0, 1438⟩ ∧ 1438 < 1439 ∧
    (atDay 65535 1439 none).retention.clock = some ⟨65535, 1439⟩ ∧
    (atDay 65535 1439 none).running = true ∧ (atDay 65535 1439 none).retention.cursor = none ∧
    (atDay 65535 1439 (some 0)).retention.cursor = some 0 ∧
    ({ atDay 65535 1439 none with module := .starting .warm } : State).running = false :=
  ⟨⟨rfl, rfl, rfl⟩, rfl, by decide, by decide, rfl, by decide, rfl, rfl, rfl, by decide, rfl, rfl, rfl, rfl,
    rfl⟩

/-- The base with the message's state day `d`. -/
def dated (d : Option Nat) : State := base.setEntry 0 { entryA with stateDay := d }

/-- Meets hypotheses of `Obligations.ExpiryCountsDaysModulo`. -/
theorem witness_expiry :
    0 ∈ ((dated none).box 0).messages ∧ (dated none).entry 0 = some { entryA with stateDay := none } ∧
    0 ∈ ((dated (some 65535)).box 0).messages ∧
    (dated (some 65535)).entry 0 = some { entryA with stateDay := some 65535 } ∧ 65535 < 65536 ∧
    ({ boxA with absent := true, untilDay := some 65535 } : Box).absent = true ∧
    ({ boxA with absent := true, untilDay := some 65535 } : Box).untilDay = some 65535 := by decide

/-- The base in a pass at box 0, with the message's state day 30 days back. -/
def expiring : State := (atDay 40 0 (some 0)).setEntry 0 { entryA with stateDay := some 10 }

/-- Meets hypotheses of `Obligations.SweepStepServesBox`. -/
theorem witness_sweep :
    expiring.running = true ∧ expiring.retention.cursor = some 0 ∧
    expiring.retention.sweepDay = some 40 ∧ 0 + 1 < Config.numBoxes ∧
    (expiring.box 0).state ≠ .unassigned ∧ expiring.expiredOf 0 40 = [0] ∧
    (atDay 0 0 (some 0)).expiredOf 0 0 = [] ∧
    ((atDay 0 0 (some 16382)).box 16382).state = .unassigned ∧ 16382 + 1 < Config.numBoxes ∧
    (atDay 0 0 (some 16383)).retention.cursor = some 16383 ∧ 16383 + 1 = Config.numBoxes ∧
    ((atDay 0 0 (some 16383)).box 16383).state = .unassigned ∧
    (atDay 0 0 (some 16383)).retention.rerun = false ∧ base.retention.cursor = none ∧
    (starting .warm).running = false := by
  refine ⟨rfl, rfl, rfl, by decide, by decide, rfl, rfl, rfl, by decide, rfl, rfl, rfl, rfl, rfl, rfl⟩

/-! ## Witnesses: calls and ports -/

theorem withPort_ready (q : Port) : (withPort q).ready := ⟨rfl, rfl, rfl⟩

/-- Meets hypotheses of `Obligations.BindingPorts`. -/
theorem witness_binding :
    base.ready ∧ 31 < Config.numPorts ∧ 127 < Config.numSlots ∧ (base.port 31).state = .free ∧
    base.portOnSlot 127 = none ∧ (withPort idlePort).portOnSlot 127 = some 31 ∧
    ((withPort idlePort).port 0).state = .free ∧ ((withPort idlePort).port 31).state = .idle ∧
    ((withPort playing).port 31).state ≠ .idle :=
  ⟨base_ready, by decide, by decide, rfl, rfl, by decide, rfl, rfl, by decide⟩

/-- The segments of sixteen plays of recording 0. -/
def sixteen : List SegmentSpec := List.replicate 16 (.recording 0 0)

/-- A port that plays with `n` levels stacked. -/
def stacked (n : Nat) : Port := { playing with stack := List.replicate n ⟨1, [segA], 0⟩ }

/-- Meets hypotheses of `Obligations.PlayAndInterjectStartLists`. -/
theorem witness_play :
    (withPort idlePort).ready ∧ 31 < Config.numPorts ∧ 1 ≤ sixteen.length ∧
    sixteen.length ≤ Config.maxSegments ∧ (∀ g ∈ sixteen, knownKind g = true) ∧
    (withPort idlePort).resolveSegments 1 sixteen = .ok (segA :: List.replicate 15 segA) ∧
    (withPort idlePort).overflowing [] 1 (segA :: List.replicate 15 segA) = none ∧
    segA.start < segA.stop ∧ ((withPort idlePort).port 31).state = .idle ∧
    (withPort idlePort).resolveSegments 1 [.recording 1 0] = .error (.noRecording, 1) :=
  ⟨withPort_ready _, by decide, by decide, by decide, by decide, rfl, rfl, by decide, rfl, rfl⟩

/-- Meets hypotheses of `Obligations.PlayAndInterjectStartLists`. -/
theorem witness_interject :
    (withPort (stacked 2)).ready ∧ ((withPort (stacked 2)).port 31).state = .playing ∧
    ((withPort (stacked 2)).port 31).op = none ∧ ((withPort (stacked 2)).port 31).stopFade = none ∧
    ((withPort (stacked 2)).port 31).level = some ⟨1, [segA], 0⟩ ∧
    ((withPort (stacked 2)).port 31).stack.length < Config.maxStack ∧
    (withPort (stacked 2)).resolveSegments 1 [.recording 0 0] = .ok [segA] ∧
    (withPort (stacked 2)).overflowing [] 1 [segA] = none ∧
    (withPort (stacked 3)).ready ∧ ((withPort (stacked 3)).port 31).level = some ⟨1, [segA], 0⟩ ∧
    Config.maxStack ≤ ((withPort (stacked 3)).port 31).stack.length ∧
    ((withPort playing).port 31).state ≠ .idle ∧ ((withPort idlePort).port 31).state ≠ .playing :=
  ⟨withPort_ready _, rfl, rfl, rfl, rfl, by decide, rfl, rfl, withPort_ready _, rfl, by decide,
    by decide, by decide⟩

/-- Meets hypotheses of `Obligations.StoppingPorts`. -/
theorem witness_stopping :
    (withPort playing).ready ∧ 31 < Config.numPorts ∧ (base.port 31).state = .free ∧
    ((withPort idlePort).port 31).state = .idle ∧ ((withPort playing).port 31).state = .playing ∧
    ((withPort playing).port 31).op = none ∧ ((withPort playing).port 31).stopFade = none ∧
    ((withPort { playing with level := some ⟨1, [Segment.callTone], 0⟩ }).port 31).playHolds = [] ∧
    ((withPort { idlePort with state := .test }).port 31).state = .test :=
  ⟨withPort_ready _, by decide, rfl, rfl, rfl, rfl, rfl, rfl, rfl⟩

/-- A box that is absent until a day, with an absence greeting. -/
def absentBox : State :=
  (withPort idlePort).setBox 0
    { boxA with absent := true, absence := some 0, untilDay := some 10, noDeposit := true }

/-- Meets hypotheses of `Obligations.AnswerStartsOperation`. -/
theorem witness_greeting_choice :
    (absentBox.box 0).absent = true ∧ (absentBox.box 0).absencePassed absentBox.day = false ∧
    (absentBox.box 0).absence ≠ none ∧ (base.box 0).absent = false ∧ (base.box 0).busy = none ∧
    (base.box 0).standard ≠ none ∧ (base.box 1).standard = none ∧
    (({ boxA with busy := some 0 } : Box)).busy ≠ none := by decide

/-- The greeting of box 0 and the tone after it. -/
def greetingA : Segment := ⟨.greeting, some 0, 0, 16, false⟩

/-- Meets hypotheses of `Obligations.AnswerStartsOperation`. -/
theorem witness_answer :
    (withPort idlePort).ready ∧ 31 < Config.numPorts ∧ answerBusyOf 1 = some true ∧
    ((withPort playing).port 31).state ≠ .idle ∧ ((withPort idlePort).port 31).state = .idle ∧
    (withPort idlePort).dir.resolveExt [0x31, 0x31, 0x31] = .ok 0 ∧
    (∀ c, (some [0x32, 0x32, 0x32] : Option (List Nat)) = some c → extValid c = true) ∧
    (withPort idlePort).chooseGreeting 0 true = (.standard, false) ∧
    (withPort idlePort).greetingList 0 .standard ++
      (withPort idlePort).afterGreeting ((withPort idlePort).dir.admission 0) false =
        greetingA :: [Segment.callTone] ∧
    (withPort idlePort).dir.admission 0 = none ∧
    (withPort idlePort).overflowing [] 1 (greetingA :: [Segment.callTone]) = none ∧
    greetingA.start < greetingA.stop ∧ absentBox.chooseGreeting 0 true = (.absence, true) ∧
    (absentBox.setBox 0 { absentBox.box 0 with state := .suspended }).dir.admission 0 =
      some .suspended :=
  ⟨withPort_ready _, by decide, rfl, by decide, rfl, rfl, fun c h => by cases h; rfl, rfl, rfl, rfl, rfl,
    by decide, rfl, rfl⟩

/-- The base with an IDLE port and a CRITICAL pool. -/
def critical : State :=
  { withPort idlePort with dir := { (withPort idlePort).dir with poolLevel := .critical } }

/-- Meets hypotheses of `Obligations.RecordStartsTone`. -/
theorem witness_record :
    (withPort idlePort).ready ∧ 31 < Config.numPorts ∧ ((withPort idlePort).port 31).state = .idle ∧
    targetCodes (.list 255 1) = .ok () ∧
    (withPort idlePort).resolveTarget (.list 255 1) = .ok (.list 255 true) ∧
    (∀ b, Purpose.list 255 true ≠ .box b) ∧ (withPort idlePort).dir.poolLevel ≠ .critical ∧
    critical.ready ∧ (critical.port 31).state = .idle ∧ critical.dir.poolLevel = .critical ∧
    critical.resolveTarget (.prompt 511) = .ok (.prompt 511) ∧
    (withPort idlePort).dir.resolveExt [0x31, 0x31, 0x31] = .ok 0 ∧
    (∀ c, (none : Option (List Nat)) = some c → extValid c = true) ∧
    critical.dir.resolveExt [0x31, 0x31, 0x31] = .ok 0 ∧
    critical.dir.admission 0 = some .pool ∧ (withPort idlePort).dir.admission 0 = none :=
  ⟨withPort_ready _, by decide, rfl, rfl, rfl, nofun, by decide, ⟨rfl, rfl, rfl⟩, rfl, rfl, rfl, rfl,
    nofun, rfl, rfl, rfl⟩

/-- The operation record of a RECORD to box 1 in CAPTURE. -/
def opB : OpRecord :=
  ⟨false, .box 1, .capture, true, true, 6000, false, none, true, none, false, some 9, none⟩

/-- The recording of that capture, with `n` frames, in state `st`. -/
def captured (st : RecState) (n : Nat) : Recording :=
  { state := st, coding := .compact, head := 5, tail := 5, blocks := max 1 ((n + 63) / 64), frames := n, limit := 6000,
    references := 1, peakClass := 8, trimmed := 0, created := none, origin := none,
    purpose := .box 1, cut := false, discard := false }

/-- A capture on port `p`'s record `q` into recording 9, in block 5, on line 7. -/
def capturing (q : Port) (v : Recording) (l : LineState) : State :=
  { (withPort q) with
    dir := { base.dir with
      blocks := ⟨[(0, .chained 0 none), (5, .chained 9 none)]⟩
      recordings := ⟨[(0, recordingOf 3), (9, v)]⟩
      boxes := ⟨[(0, boxA), (1, { boxB with reserved := 6000, pendingDeposits := 1 })]⟩ }
    cache := { Cache.cold with lines := ⟨[(7, ⟨l, some 5, false, []⟩)]⟩, pins := ⟨[(31, 7)]⟩ } }

/-- The port of that deposit while it seals. -/
def closing : Port := { idlePort with state := .closing, op := some { opB with phase := .closing } }

/-- Meets hypotheses of `Obligations.DepositSealsIntoEntry`. -/
theorem witness_deposit_seals :
    (capturing closing (captured .sealing 60) .writing).recording 9 = some (captured .sealing 60) ∧
    (captured .sealing 60).state = .sealing ∧
    (capturing closing (captured .sealing 60) .writing).unwritten 9 = true ∧
    (capturing closing (captured .sealing 60) .clean).recording 9 = some (captured .sealing 60) ∧
    (capturing closing (captured .sealing 60) .clean).unwritten 9 = false ∧
    (captured .sealing 60).discard = false ∧ (captured .sealing 60).purpose = .box 1 ∧
    1 ≤ (captured .sealing 60).references ∧ (captured .sealing 60).references < Config.maxRefs ∧
    (capturing closing (captured .sealing 60) .clean).portFilling 9 = some 31 ∧
    ((capturing closing (captured .sealing 60) .clean).port 31).op =
      some { opB with phase := .closing } ∧
    opB.target = .box 1 ∧ opB.depositHeld = true ∧
    (capturing closing (captured .sealing 60) .clean).dir.entryFor 1 9 = none ∧
    (capturing closing (captured .sealing 60) .clean).dir.entries.lowestFree Config.numEntries =
      some 1 := by
  refine ⟨rfl, rfl, ?_, rfl, ?_, rfl, rfl, by decide, by decide, ?_, rfl, rfl, rfl, rfl, rfl⟩ <;>
    decide +kernel

/-! ## Witnesses: frame times and captures -/

theorem quiet_elsewhere (q : Port) (h : q.stopFade = none) :
    ∀ n, n < Config.numPorts →
      ((withPort q).port n).stopFade = none ∧ (n ≠ 31 → ((withPort q).port n).slot = none) := by
  intro n _
  rcases Nat.decEq n 31 with e | e
  · rw [show (withPort q).port n = base.port n from State.port_setPort_other _ _ e]
    exact ⟨rfl, fun _ => rfl⟩
  · subst e
    exact ⟨(congrArg Port.stopFade (State.port_setPort base 31 q)).trans h, fun hn => absurd rfl hn⟩

/-- A RECORDING port with `n` frames in its capture queue. -/
def recordingPort (n : Nat) : Port :=
  { idlePort with state := .recording, op := some opB, capture := List.replicate n silentFrame }

/-- A queued frame of a play list, its last but one. -/
def queued : QueuedFrame := ⟨1, 14, silentFrame⟩

/-- A PLAYING port with one frame queued, and a fade-in or none. -/
def queuedPort (fade : Option Nat) : Port := { playing with playout := [queued], fadeIn := fade }

/-- Meets hypotheses of `Obligations.FrameTimeServesPorts`. -/
theorem witness_frame_time :
    (starting .warm).module = .starting .warm ∧ base.module ≠ .starting .warm ∧
    (∀ q, q < Config.numPorts → (base.port q).slot = none ∧ (base.port q).stopFade = none) ∧
    31 < Config.numPorts ∧ ((withPort idlePort).port 31).slot = some 127 ∧
    ((withPort idlePort).port 31).state = .idle ∧ ((withPort closing).port 31).state = .closing ∧
    (capturing (recordingPort 15) (captured .opened 0) .modified).cache.lineOf 5 = some 7 ∧
    (recordingPort 15).capture.length < Config.captureQueueSize ∧
    Config.captureQueueSize ≤ (recordingPort 16).capture.length ∧
    ((withPort (queuedPort none)).port 31).playout = queued :: [] ∧ queued.segment = 1 ∧
    queued.number + 1 < segA.stop ∧ ((withPort (queuedPort (some 8))).port 31).fadeIn = some 8 ∧
    ((withPort playing).port 31).playout = [] ∧ 0 < segA.stop :=
  ⟨rfl, by decide, fun _ _ => ⟨rfl, rfl⟩, by decide, rfl, rfl, rfl, by decide, by decide, by decide, rfl,
    rfl, by decide, rfl, rfl, by decide⟩

/-- A port in the STOP fade, at step `n`. -/
def fading (n : Nat) : Port := { playing with stopFade := some ⟨n, false⟩ }

/-- Meets hypotheses of `Obligations.FrameTimeServesPorts`. -/
theorem witness_stop_fade_end :
    (starting .warm).running = false ∧ (withPort (fading 9)).running = true ∧
    ((withPort (fading 9)).port 31).stopFade = some ⟨9, false⟩ ∧
    ((withPort (fading 8)).port 31).stopFade = some ⟨8, false⟩ ∧ 8 < 9 ∧
    ((withPort (fading 9)).port 31).op = none ∧
    ((withPort (fading 9)).port 31).level = some ⟨1, [segA], 0⟩ ∧
    ((withPort (fading 9)).port 31).stack = [] ∧ Config.numPorts ≤ 32 :=
  ⟨rfl, rfl, rfl, rfl, by decide, rfl, rfl, rfl, by decide⟩

/-- A capturing port with a detector. -/
def heard (d : Detector) : Port := { recordingPort 1 with detector := d }

/-- Meets hypotheses of `Obligations.CaptureStoresAndEnds`. -/
theorem witness_capture :
    (capturing (recordingPort 1) (captured .opened 5999) .modified).running = true ∧
    31 < Config.numPorts ∧ (recordingPort 1).state = .recording ∧ (recordingPort 1).op = some opB ∧
    opB.recording = some 9 ∧
    (capturing (recordingPort 1) (captured .opened 63) .modified).recording 9 =
      some (captured .opened 63) ∧
    (recordingPort 1).capture = silentFrame :: [] ∧
    (recordingPort 1).detector.quietDue = false ∧ (recordingPort 1).detector.timeoutDue = false ∧
    (captured .opened 5999).frames < (captured .opened 5999).limit ∧
    (captured .opened 63).frames < (captured .opened 63).blocks * Coding.compact.fpb ∧
    (capturing (recordingPort 1) (captured .opened 63) .modified).cache.lineOf 5 = some 7 ∧
    ((capturing (recordingPort 1) (captured .opened 63) .modified).cache.line 7).state = .modified ∧
    (capturing (recordingPort 1) (captured .opened 63) .modified).cache.pins.find 31 = some 7 ∧
    (heard { Detector.initial with quietDue := true }).detector.quietDue = true ∧
    ({ opB with endOnSilence := false } : OpRecord).endOnSilence = false ∧
    (heard { Detector.initial with timeoutDue := true }).detector.timeoutDue = true ∧
    (captured .opened 6000).limit ≤ (captured .opened 6000).frames ∧
    (heard { Detector.initial with timeoutDue := true }).detector.talkSeen = false ∧
    (captured .opened 6000).references = 1 ∧ (recordingPort 1).playHolds = [] := by
  decide +kernel

/-! ## Witnesses: path tests, voice settings and companding -/

/-- A port in a path test. -/
def testing (m : TestMode) (rate : Option Nat) : Port :=
  { idlePort with
    state := .test
    pathTest := some ⟨m, 23, 18, 1, [], false, rate, 0, 0, false, [], 0, [], false⟩ }

/-- Meets hypotheses of `Obligations.PathTestsStart`. -/
theorem witness_path_tests :
    (withPort idlePort).ready ∧ 31 < Config.numPorts ∧ testModeOf 2 = some .patternLocal ∧
    ((withPort idlePort).port 31).state = .idle ∧ ((withPort playing).port 31).state ≠ .idle ∧
    ((withPort (testing .patternLine none)).port 31).state = .test ∧
    ((withPort (testing .patternLine none)).port 31).pathTest =
      some ⟨.patternLine, 23, 18, 1, [], false, none, 0, 0, false, [], 0, [], false⟩ ∧
    TestMode.patternLine ≠ .echo ∧ 1 ≤ 1 ∧ 1 ≤ 8 ∧
    (∀ t, ((withPort (testing .echo none)).port 31).pathTest = some t → t.mode = .echo) :=
  ⟨withPort_ready _, by decide, rfl, rfl, by decide, rfl, rfl, by decide, by decide, by decide,
    fun t h => by cases h; rfl⟩

/-- Meets hypotheses of `Obligations.VoiceSettingsClamp`. -/
theorem witness_voice_settings :
    State.reset.ready ∧ 31 < Config.numPorts ∧
    (List.Pairwise (· ≤ ·) (([8, 16, 16, 4095, 5000] : List Nat).map (min 4095))) ∧
    (List.Pairwise (· ≤ ·) (([8] ++ [16] : List Nat).map (min 4095))) ∧
    min 4095 15 < min 4095 16 :=
  ⟨⟨rfl, rfl, rfl⟩, by decide, by decide, by decide, by decide⟩

/-- Meets hypotheses of `Obligations.CompandingTakesLargestBelow`. -/
theorem witness_companding :
    (0x81 : Byte).toNat / 128 = (0xFF : Byte).toNat / 128 ∧ (0x81 : Byte).toNat < (0xFF : Byte).toNat ∧
    (1 : Nat) ≠ 0 ∧ (128 ≤ (0xFF : Byte).toNat ↔ true = true) ∧ magnitudeOf 0xFF ≤ 3968 := by decide

/-! ## Witnesses: lamps and the lamp line -/

/-- A lamp of box `b`'s station in state `st`. -/
def lampOn (station : Nat) (st : LampState) : Lamp :=
  { Lamp.unmapped with station := some (64, station), state := st }

/-- The base with the lamp of box 0 at shelf 64, station 255. -/
def lit (st : LampState) (queue : List Nat) (line : LampLine) : State :=
  { base with lamps := ⟨[(0, lampOn 255 st)]⟩, lampQueue := queue, line := line }

/-- Meets hypotheses of `Obligations.LampMapping`. -/
theorem witness_lamp_mapping :
    base.ready ∧ base.dir.resolve (.index 0) = .ok 0 ∧ 1 ≤ 1 ∧ 64 ≤ 64 ∧ 255 < 256 ∧
    base.boxAt 64 255 = none ∧ (lit .settled [] LampLine.cold).boxAt 64 255 = some 0 ∧
    (lit .settled [] LampLine.cold).dir.resolve (.index 1) = .ok 1 ∧ (0 : Nat) ≠ 1 ∧
    (base.lamp 0).station = none ∧ (lit .queued [0] LampLine.cold).ready ∧
    ({ LampLine.cold with sending := some (.ack 1 0) } : LampLine).sending ≠ none ∧
    ((lit .queued [0] LampLine.cold).lamp 0).station ≠ none ∧
    lampSourceOf 3 = some .any ∧
    base.dir.wanted 0 .any ≠ ((lit .settled [] LampLine.cold).lamp 0).wanted ∧
    base.dir.settings.settle ≠ 0 ∧ (0 : Nat) ∉ ([] : List Nat) :=
  ⟨base_ready, rfl, by decide, by decide, by decide, rfl, rfl, rfl, by decide, rfl, ⟨rfl, rfl, rfl⟩,
    by decide, by decide, rfl, by decide, by decide, by decide⟩

/-- Meets hypotheses of `Obligations.LampSettingsAndRefresh`. -/
theorem witness_lamp_settings :
    (lit .failed [] LampLine.cold).ready ∧ true = base.dir.settings.fastForUrgent ∧
    (lit .failed [] LampLine.cold).scopeBoxes .all = .ok [0] ∧
    (lit .failed [] LampLine.cold).scopeBoxes (.shelf 64) = .ok [0] ∧
    (lit .failed [] LampLine.cold).scopeBoxes (.shelf 1) = .ok [] ∧
    (lit .failed [] LampLine.cold).scopeBoxes (.box (.index 0)) = .ok [0] :=
  ⟨⟨rfl, rfl, rfl⟩, rfl, rfl, rfl, rfl, rfl⟩

/-- Meets hypotheses of `Obligations.LampSettingsAndRefresh`. -/
theorem witness_lit_canonical : (lit .failed [] LampLine.cold).canonical :=
  ⟨⟨rfl, rfl, rfl, rfl, rfl, rfl, rfl⟩, ⟨rfl, rfl⟩, rfl, rfl, rfl, rfl⟩

/-- An order in flight for shelf 64. -/
def orderA (box : Option Nat) (resends : Nat) (probe running : Bool) : Order :=
  ⟨64, 255, box, .steady, 0, 0, 7, resends, probe, running⟩

/-- A line with one order in flight. -/
def ordering (o : Order) : LampLine := { LampLine.cold with orders := [o] }

/-- A line with `n` orders in flight, for the shelves from 1 on. -/
def slots (n : Nat) : LampLine :=
  { LampLine.cold with
    orders := (List.range n).map fun k => { orderA none 0 false true with shelf := k + 1 } }

/-- Meets hypotheses of `Obligations.DownLineSendsInOrder`. -/
theorem witness_down_line :
    base.line.sending = none ∧ (lit .queued [0] (slots 7)).line.ackQueue = [] ∧
    (lit .queued [0] (slots 7)).line.resends = [] ∧
    (lit .queued [0] (slots 7)).line.orders.length < Config.lampSlots ∧
    Config.lampSlots ≤ (lit .queued [0] (slots 8)).line.orders.length ∧
    (lit .queued [0] (slots 7)).line.probesDue = [] ∧
    (lit .queued [0] (slots 7)).lampQueue = 0 :: [] ∧
    ((lit .queued [0] (slots 7)).lamp 0).station = some (64, 255) ∧
    ((lit .queued [0] (slots 7)).shelf 64).up = true ∧
    ((lit .queued [0] (slots 7)).shelf 64).pausedUntil = none ∧
    (∀ o ∈ (lit .queued [0] (slots 7)).line.orders, o.shelf ≠ 64) ∧
    ({ LampLine.cold with ackQueue := [(64, 7)] } : LampLine).ackQueue = (64, 7) :: [] ∧
    ({ ordering (orderA none 0 false false) with resends := [64] } : LampLine).resends = 64 :: [] ∧
    ({ LampLine.cold with sending := some (.ack 64 7) } : LampLine).sending ≠ none ∧
    ({ ordering (orderA none 0 false false) with
      sending := some (orderA none 0 false false).frame } : LampLine).sending =
        some (.order 64 255 7 .steady 0 0) ∧
    ((lit .settled [] LampLine.cold).lamp 0).state ≠ .waiting ∧
    ((lit .waiting [] LampLine.cold).lamp 0).state = .waiting ∧
    ((lit .waiting [] LampLine.cold).lamp 0).confirmed ≠
      some ((lit .waiting [] LampLine.cold).lamp 0).wanted ∧
    ({ lampOn 255 .waiting with confirmed := some .dark } : Lamp).confirmed =
      some ({ lampOn 255 .waiting with confirmed := some .dark } : Lamp).wanted := by decide

/-- A line with one order in flight, whose shelf has failed `n` times in a row. -/
def failing (o : Order) (n : Nat) (up : Bool) : LampLine :=
  { ordering o with shelves := ⟨[(64, { Shelf.cold with consecutive := n, up := up })]⟩ }

/-- Meets hypotheses of `Obligations.OrderTimersExpire`. -/
theorem witness_order_timers :
    (∀ o, LampLine.cold.orderOf 64 = some o → o.timerRunning = false) ∧
    (∀ o, (ordering (orderA none 0 false false)).orderOf 64 = some o → o.timerRunning = false) ∧
    (failing (orderA (some 0) 2 false true) 1 true).orderOf 64 = some (orderA (some 0) 2 false true) ∧
    (orderA (some 0) 2 false true).resends < base.dir.settings.retryLimit ∧
    base.dir.settings.retryLimit ≤ (orderA (some 0) 3 false true).resends ∧
    ((lit .inFlight [] (failing (orderA (some 0) 3 false true) 1 true)).shelf 64).consecutive < 2 ∧
    ((lit .inFlight [] (failing (orderA (some 0) 3 false true) 2 true)).shelf 64).consecutive = 2 ∧
    (failing (orderA (some 0) 0 true true) 3 false).orderOf 64 = some (orderA (some 0) 0 true true) ∧
    (base.shelf 64).probeAt = none ∧ ({ Shelf.cold with probeAt := some 0 } : Shelf).probeAt ≠ none ∧
    (∃ b ∈ (lit .queued [0] LampLine.cold).lampQueue, ∃ st,
      ((lit .queued [0] LampLine.cold).lamp b).station = some (64, st)) ∧
    (∀ b ∈ base.lampQueue, ∀ st, (base.lamp b).station ≠ some (64, st)) ∧
    ({ Shelf.cold with pausedUntil := some 0 } : Shelf).pausedUntil ≠ none ∧
    (base.shelf 64).pausedUntil = none :=
  ⟨nofun, fun o h => by cases h; rfl, rfl, by decide, by decide, by decide, rfl, rfl, rfl, by decide,
    ⟨0, by decide, 255, rfl⟩, nofun, by decide, rfl⟩

/-- Meets hypotheses of `Obligations.ShelfAnswersActOnRecords`. -/
theorem witness_shelf_answers :
    1 ≤ 1 ∧ 64 ≤ 64 ∧ (∀ o, LampLine.cold.orderOf 64 = some o → o.number ≠ 7) ∧
    (∀ o, (ordering (orderA none 0 false true)).orderOf 64 = some o → o.number ≠ 6) ∧
    (ordering (orderA (some 0) 0 false true)).orderOf 64 = some (orderA (some 0) 0 false true) ∧
    (orderA (some 0) 0 false true).number = 7 ∧
    ({ lampOn 255 .inFlight with sent := some .dark } : Lamp).sent =
      some ({ lampOn 255 .inFlight with sent := some .dark } : Lamp).wanted ∧
    ({ lampOn 255 .inFlight with sent := some .fast } : Lamp).sent ≠
      some ({ lampOn 255 .inFlight with sent := some .fast } : Lamp).wanted ∧
    (failing (orderA none 0 true true) 3 false).orderOf 64 = some (orderA none 0 true true) ∧
    (lit .failed [] (failing (orderA none 0 true true) 3 false)).mappedTo 64 = [0] ∧
    ((lit .failed [] (failing (orderA none 0 true true) 3 false)).lamp 0).state = .failed :=
  ⟨by decide, by decide, nofun, fun o h => by cases h; decide, rfl, rfl, rfl, by decide, rfl, rfl, rfl⟩

/-- Meets hypotheses of `Obligations.ShelfFramesAct`. -/
theorem witness_shelf_frames :
    (64 : Nat) ∉ LampLine.cold.ackQueue.map Prod.fst ∧
    (64 : Nat) ∈ ({ LampLine.cold with ackQueue := [(64, 7)] } : LampLine).ackQueue.map Prod.fst ∧
    (base.shelf 64).lastAccepted ≠ some 7 ∧
    ({ Shelf.cold with lastAccepted := some 7 } : Shelf).lastAccepted = some 7 ∧
    base.boxAt 64 255 = none ∧ (lit .inFlight [] LampLine.cold).boxAt 64 255 = some 0 ∧
    base.line.receiver = .hunting ∧ (List.replicate 9 (0 : Byte)).length = 9 ∧
    ((List.replicate 9 (0 : Byte)).getD 0 0).toNat = 0 ∧
    (64 : Nat) < ((List.replicate 9 (65 : Byte)).getD 0 0).toNat := by decide

/-! ## Witnesses: the whole module -/

/-- The module after reset with a STATUS in front. -/
def commanded : State := { State.reset with pending := [.status 0] }

/-- Meets hypotheses of `Obligations.StepKeepsLimits`. -/
theorem witness_commanded_bounded : commanded.bounded :=
  ⟨⟨by decide, by decide, by decide, nofun, by decide, rfl⟩, ⟨by decide, by decide, by decide⟩,
    fun _ => ⟨Nat.zero_le 3, Nat.zero_le 16⟩, by decide, nofun, nofun⟩

/-- Meets hypotheses of `Obligations.StepKeepsCanonicalForm`. -/
theorem witness_commanded_canonical : commanded.canonical :=
  ⟨⟨rfl, rfl, rfl, rfl, rfl, rfl, rfl⟩, ⟨rfl, rfl⟩, rfl, rfl, rfl, rfl⟩

/-- Meets hypotheses of `Obligations.StepKeepsLimits`. -/
theorem witness_commanded_steps : ∃ t, step commanded = .next t := ⟨_, rfl⟩

/-! ## Witnesses: remaps and cuts -/

/-- The recording of box 1 in blocks 5, 6 and 7, with 150 frames, in state `st`. -/
def spread (st : RecState) : Recording := { captured st 150 with tail := 7 }

/-- That recording with a pool, its first block on a MODIFIED line 3, and the write of block `b`, from
line 4, in flight. -/
def remapping (q : Port) (st : RecState) (pool : Pool) (b : Nat) : State :=
  { (withPort q) with
    dir := { base.dir with
      pool := pool
      blocks := ⟨[(0, .chained 0 none), (5, .chained 9 (some 6)), (6, .chained 9 (some 7)),
        (7, .chained 9 none)]⟩
      recordings := ⟨[(0, recordingOf 3), (9, spread st)]⟩
      boxes := ⟨[(0, boxA), (1, { boxB with reserved := 6000, pendingDeposits := 1 })]⟩ }
    cache := { Cache.cold with
      lines := ⟨if b = 5 then [(4, ⟨.writing, some 5, false, []⟩)]
        else [(3, ⟨.modified, some 5, false, []⟩), (4, ⟨.writing, some b, false, []⟩)]⟩
      writeQueue := if b = 5 then [] else [3]
      inFlight := some ⟨true, 4, b⟩ } }

/-- Meets hypotheses of `Obligations.FailedWriteRemapsBlock`: the last block of a chain and the first,
with a block in the pool. -/
theorem witness_remap :
    (let s := remapping idlePort .sealing ⟨[⟨1, 1⟩]⟩ 7
     s.running = true ∧ s.cache.waitQueue = [] ∧ s.cache.lineOf 7 = some 4 ∧
     s.cache.line 4 = ⟨.writing, some 7, false, []⟩ ∧ s.dir.block 7 = some (.chained 9 none) ∧
     s.recording 9 = some (spread .sealing) ∧ s.dir.chainOf (spread .sealing) = [5, 6] ++ 7 :: [] ∧
     s.dir.pool.take = some (1, ⟨[]⟩) ∧ s.dir.block 1 = none) ∧
    (let s := remapping idlePort .sealing ⟨[⟨1, 1⟩]⟩ 5
     s.cache.lineOf 5 = some 4 ∧ s.dir.block 5 = some (.chained 9 (some 6)) ∧
     s.dir.chainOf (spread .sealing) = [] ++ 5 :: [6, 7] ∧
     (s.dir.chainOf (spread .sealing)).Nodup ∧
     ∀ a ∈ s.dir.chainOf (spread .sealing), s.dir.ownerOf a = some 9) := by
  decide +kernel

/-- Meets hypotheses of `Obligations.FailedWriteRemapsBlock`: a cut of a recording that no port fills,
of one that seals, and of one that is OPEN. -/
theorem witness_cut :
    (let s := remapping idlePort .sealed ⟨[]⟩ 6
     s.dir.pool.take = none ∧ s.cache.waitQueue = [] ∧ s.portFilling 9 = none ∧
     s.dir.chainOf (spread .sealed) = [5] ++ 6 :: [7]) ∧
    (let s := remapping closing .sealing ⟨[]⟩ 6
     s.dir.pool.take = none ∧ s.cache.waitQueue = [] ∧ s.portFilling 9 = some 31 ∧
     (s.port 31).op.bind OpRecord.recording = some 9 ∧
     s.dir.chainOf (spread .sealing) = [5] ++ 6 :: [7] ∧ [5].getLast? = some 5 ∧
     Config.minFrames ≤ 1 * Coding.compact.fpb ∧ s.cache.writeQueue = [3] ∧
     (s.cache.line 3).tag = some 5 ∧ (s.cache.line 3).state = .modified) ∧
    (let s := remapping { recordingPort 0 with
        detector := { Detector.initial with state := .talk, talkSeen := true } } .opened ⟨[]⟩ 6
     s.portFilling 9 = some 31 ∧ (s.port 31).op = some opB ∧ opB.recording = some 9 ∧
     (s.port 31).detector.talkSeen = true ∧ s.cache.lineOf 5 = some 3 ∧
     (∀ q, q ≠ 31 → s.cache.pins.find q ≠ some 3)) := by
  refine ⟨by decide +kernel, by decide +kernel, by decide +kernel, by decide +kernel,
    by decide +kernel, by decide +kernel, by decide +kernel, fun _ _ => nofun⟩

/-- That recording with the line of its first block written already. -/
def written (q : Port) (st : RecState) : State :=
  let s := remapping q st ⟨[]⟩ 6
  { s with cache := { s.cache with
    lines := ⟨[(3, ⟨.clean, some 5, false, []⟩), (4, ⟨.writing, some 6, false, []⟩)]⟩
    writeQueue := [] } }

/-- Meets hypotheses of `Obligations.FailedWriteRemapsBlock`: a cut whose older lines are all written. -/
theorem witness_cut_written (q : Port) (st : RecState) :
    (written q st).cache.lineOf 6 = some 4 ∧
    (∀ m, ((written q st).cache.line m).tag = some 5 →
      ((written q st).cache.line m).state ≠ .modified) ∧
    ∀ c, (written q st).dir.ownerOf c = some 9 → c ∈ (written q st).dir.chainOf (spread st) := by
  refine ⟨rfl, fun m h => ?_, fun c h => ?_⟩
  · by_cases e : 3 = m
    · subst e; simp [written, Cache.line, Table.read, Table.find, rowFind]
    · by_cases f : 4 = m
      · subst f; simp [written, Cache.line, Table.read, Table.find, rowFind] at h
      · simp [written, Cache.line, Table.read, Table.find, rowFind, e, f, Line.invalid] at h
  · have k : (written q st).dir.chainOf (spread st) = [5, 6, 7] := by cases st <;> rfl
    rw [k]
    have b : (written q st).dir.block c = rowFind [(0, .chained 0 none), (5, .chained 9 (some 6)),
      (6, .chained 9 (some 7)), (7, .chained 9 none)] c := rfl
    unfold Directory.ownerOf at h
    rw [b] at h
    simp only [rowFind] at h
    by_cases e0 : 0 = c <;> by_cases e5 : 5 = c <;> by_cases e6 : 6 = c <;> by_cases e7 : 7 = c <;>
      simp_all

/-- Meets hypotheses of `Obligations.FailedWriteRemapsBlock`: no other line is WRITING. -/
theorem witness_cut_lines (q : Port) (st : RecState) (pool : Pool) :
    (remapping q st pool 6).cache.canonical ∧
    ∀ m, m ≠ 4 → ((remapping q st pool 6).cache.line m).state ≠ .writing := by
  refine ⟨⟨rfl, rfl⟩, fun m h => ?_⟩
  show (Table.read Line.invalid ⟨[(3, _), (4, _)]⟩ m).state ≠ _
  rcases Nat.decEq m 3 with e | e
  · simp [Table.read, Table.find, rowFind, Ne.symm h, Ne.symm e, Line.invalid]
  · subst e; decide

/-! ## Witnesses: fills and the cache's requests -/

/-- A port that plays recording 0 and waits for the last frame of its block. -/
def awaiting : Port := { playing with next := some (1, 15), lookahead := [0] }

/-- That port with the fill of block 0 in flight. -/
def filling : State :=
  { withPort awaiting with
    cache := { Cache.cold with
      lines := ⟨[(0, ⟨.filling, some 0, false, []⟩)]⟩, inFlight := some ⟨false, 0, 0⟩ } }

/-- Meets hypotheses of `Obligations.FillEndsCleanOrError`: a line marked drop-on-completion, and a
port that waits for the block. -/
theorem witness_fill_waits :
    (withLine ⟨.filling, none, true, []⟩ (some ⟨false, 0, 0⟩)).cache.line 0 =
      ⟨.filling, none, true, []⟩ ∧
    filling.running = true ∧ filling.cache.lineOf 0 = some 0 ∧
    (filling.port 31).lookahead.contains 0 = true ∧
    (filling.port 31).level = some ⟨1, [segA], 0⟩ ∧ (filling.port 31).next = some (1, 15) ∧
    (⟨1, [segA], 0⟩ : Level).from 1 = segA :: [] ∧ segA.recording = some 0 ∧
    filling.blockOf 0 15 = some 0 ∧
    (filling.port 31).playout.length < filling.dir.settings.depth 31 := by
  decide +kernel

/-- Meets hypotheses of `Obligations.FillEndsCleanOrError`: no other port waits. -/
theorem witness_fill_ports (q : Nat) (h : q ≠ 31) : (filling.port q).state ≠ .playing := by
  show ((withPort awaiting).port q).state ≠ _
  rw [show (withPort awaiting).port q = base.port q from State.port_setPort_other _ _ h]
  exact nofun

/-- A cache with a block on line `n` in state `st`, requests waiting and an operation in flight. -/
def busyCache (st : LineState) (waits : Nat) : Cache :=
  { Cache.cold with
    lines := ⟨[(0, ⟨st, some 5, false, []⟩)]⟩
    recency := [0]
    waitQueue := List.replicate waits ⟨.touch false, 6, 31⟩
    inFlight := some ⟨false, 7, 8⟩ }

/-- Meets hypotheses of `Obligations.AllocationTakesLowestOrOldest`. -/
theorem witness_cache_requests :
    (busyCache .error 0).lineOf 5 = some 0 ∧ ((busyCache .error 0).line 0).state = .error ∧
    (busyCache .filling 1).lineOf 6 = none ∧
    (busyCache .filling 1).waitQueue = [] ++ ⟨.touch false, 6, 31⟩ :: [] ∧
    (∀ e ∈ (busyCache .filling 63).waitQueue, e.block ≠ 5) ∧
    (busyCache .filling 63).waitQueue.length < 64 ∧ 64 ≤ (busyCache .filling 64).waitQueue.length ∧
    (busyCache .clean 0).allocatable = some 1 ∧ ((busyCache .writing 0).line 0).state = .writing ∧
    ((busyCache .filling 0).line 0).state = .filling ∧
    ({ busyCache .filling 0 with inFlight := some ⟨false, 0, 5⟩ } : Cache).inFlight =
      some ⟨false, 0, 5⟩ ∧
    (busyCache .modified 0).pinCount 0 = 0 ∧ (busyCache .clean 0).pins.find 31 = none ∧
    ({ busyCache .clean 0 with pins := ⟨[(31, 0)]⟩ } : Cache).pins.find 31 = some 0 := by
  decide +kernel

/-- The lines of a cache that has no line to give. -/
def fullLines : Table Line := ⟨(List.range 2048).map fun n => (n, ⟨.modified, some n, false, []⟩)⟩

/-- Meets hypotheses of `Obligations.AllocationTakesLowestOrOldest`: an allocation that fails. -/
theorem witness_no_line (c : Cache) (h : c.lines = fullLines) (hr : c.recency = []) :
    c.allocatable = none := by
  have row : ∀ (l : List Nat) (n : Nat), n ∈ l →
      rowFind (l.map fun n => (n, (⟨.modified, some n, false, []⟩ : Line))) n =
        some ⟨.modified, some n, false, []⟩ := by
    intro l
    induction l with
    | nil => exact nofun
    | cons a l ih =>
      intro n hn
      by_cases e : a = n
      · simp [rowFind, e]
      · simpa [rowFind, e] using ih n (by simpa [Ne.symm e] using hn)
  have none : leastFrom (fun n => (c.line n).state == .invalid && c.pinCount n == 0)
      Config.numLines 0 = .none := by
    refine leastFrom_none fun n _ hn => ?_
    have := row (List.range 2048) n (List.mem_range.mpr (by simpa [Config.numLines] using hn))
    simp [Cache.line, h, fullLines, Table.read, Table.find, this]
  simp [Cache.allocatable, none, hr]

/-! ## Witnesses: reads, jobs and the last box of a pass -/

/-- Meets hypotheses of `Obligations.BoxReadsReport`. -/
theorem witness_read_fields :
    boxA.greeting .name = none ∧ boxA.greeting .standard = some 0 ∧
    base.recording 0 = some (recordingOf 3) ∧ base.entry 0 = some entryA := by decide

/-- The base with three jobs, the first and the last of list 255. -/
def threeJobs : State :=
  { base with jobs := [jobAt (.at 1), ⟨7, 0, none, false, .waiting, 0, 0, 0, 0⟩,
      { jobAt .waiting with number := 3 }] }

/-- Meets hypotheses of `Obligations.ListRequestsChangeLists` and
`Obligations.JobRequestsQueueAndCancel`. -/
theorem witness_job_queue :
    threeJobs.ready ∧ (threeJobs.jobs.map Job.number).Nodup ∧
    threeJobs.jobs = jobAt (.at 1) :: threeJobs.jobs.drop 1 ∧ (jobAt (.at 1)).cursor ≠ .waiting ∧
    (threeJobs.jobs.filter (fun j => j.list == some 255)).length < (recordingOf 3).references ∧
    threeJobs.jobs.find? (fun k => k.number == 7) =
      some ⟨7, 0, none, false, .waiting, 0, 0, 0, 0⟩ :=
  ⟨⟨rfl, rfl, rfl⟩, by decide, rfl, by decide, by decide, rfl⟩

/-- A pass at the last box, which holds the message whose time has run out and an absence that has
passed, with a rerun marked. -/
def lastPass : State :=
  { atDay 40 0 (some 16383) with
    dir := { base.dir with
      boxes := ⟨[(16383, { boxA with absent := true, untilDay := some 39 })]⟩
      entries := ⟨[(0, { entryA with box := 16383, stateDay := some 10 })]⟩ }
    retention := { (atDay 40 0 (some 16383)).retention with rerun := true, sweepDay := some 40 } }

/-- Meets hypotheses of `Obligations.SweepStepServesBox`. -/
theorem witness_sweep_removes :
    lastPass.running = true ∧ lastPass.retention.cursor = some 16383 ∧
    lastPass.retention.sweepDay = some 40 ∧ (lastPass.box 16383).state ≠ .unassigned ∧
    lastPass.expiredOf 16383 40 = [0] ∧ (lastPass.box 16383).messages.Nodup ∧
    lastPass.entry 0 = some { entryA with box := 16383, stateDay := some 10 } ∧
    (lastPass.box 16383).absencePassed (some 40) = true ∧ Config.numBoxes ≤ 16383 + 1 ∧
    lastPass.retention.rerun = true ∧ lastPass.day = some 40 ∧
    (atDay 0 0 (some 16383)).retention.rerun = false ∧
    (∀ e ∈ [0], ∀ f ∈ [0], ∀ v w, lastPass.entry e = some v → lastPass.entry f = some w →
      v.recording = w.recording → e = f) := by
  refine ⟨rfl, rfl, rfl, by decide, rfl, by decide, rfl, by decide, by decide, rfl, rfl, rfl, ?_⟩
  intro e he f hf _ _ _ _ _
  rw [List.mem_singleton.mp he, List.mem_singleton.mp hf]

/-! ## Witnesses: calls, stops and records -/

/-- The base with recording 0 at its last reference. -/
def lastReference (q : Port) : State := (withPort q).setRecording 0 (recordingOf 16383)

/-- Meets hypotheses of `Obligations.PlayAndInterjectStartLists`. -/
theorem witness_play_edges :
    (withPort idlePort).resolveSegments 1 [.prompt 510, .recording 0 0] =
      .ok ([⟨.prompt, none, 0, 0, false⟩] ++ segA :: []) ∧
    (lastReference idlePort).ready ∧ ((lastReference idlePort).port 31).state = .idle ∧
    (lastReference idlePort).resolveSegments 1 [.recording 0 0] = .ok [segA] ∧
    (lastReference idlePort).overflowing [] 1 [segA] = some 1 ∧
    (lastReference (stacked 2)).overflowing [] 1 [segA] = some 1 ∧
    (lastReference (stacked 2)).resolveSegments 1 [.recording 0 0] = .ok [segA] ∧
    (Config.maxSegments < (List.replicate 17 SegmentSpec.tone).length) ∧
    knownKind (.unknown 6) = false :=
  ⟨rfl, ⟨rfl, rfl, rfl⟩, rfl, rfl, rfl, rfl, rfl, by decide, rfl⟩

/-- The operation of an ANSWER to box 1 that plays its greeting, a deposit reserved. -/
def opPlaying : OpRecord :=
  { opB with answer := true, phase := .greeting, recording := none, greeting := some .default }

/-- A port in that operation. -/
def answeringPort : Port := { playing with op := some opPlaying }

/-- Meets hypotheses of `Obligations.StoppingPorts`. -/
theorem witness_stops :
    (withPort (fading 1)).ready ∧ ((withPort (fading 8)).port 31).stopFade = some ⟨8, false⟩ ∧
    ((withPort (fading 1)).port 31).op = none ∧ ((withPort (fading 1)).port 31).stack = [] ∧
    ((withPort (testing .echo none)).port 31).pathTest =
      some ⟨.echo, 23, 18, 1, [], false, none, 0, 0, false, [], 0, [], false⟩ ∧
    ((capturing closing (captured .sealing 60) .writing).port 31).state = .closing ∧
    ((capturing closing (captured .sealing 60) .writing).port 31).op =
      some { opB with phase := .closing } ∧
    ((withPort answeringPort).port 31).state = .playing ∧
    ((withPort answeringPort).port 31).op = some opPlaying ∧ opPlaying.depositHeld = true ∧
    opPlaying.target = .box 1 := by
  refine ⟨withPort_ready _, ?_⟩; decide

/-- Meets hypotheses of `Obligations.RecordStartsTone`. -/
theorem witness_record_refused :
    targetCodes (.list 255 2) = .error (.range, 0) ∧ ((withPort playing).port 31).state ≠ .idle ∧
    (withPort idlePort).resolveTarget (.list 254 0) = .error (.noList, 0) := by decide

/-! ## Witnesses: seals -/

/-- A port whose capture seals into `goal`, the recording with 60 frames CLEAN in block 5. -/
def sealing (goal : Purpose) : State :=
  capturing { closing with op := some { opB with phase := .closing, target := goal } }
    { captured .sealing 60 with purpose := goal } .clean

/-- Meets hypotheses of `Obligations.DepositSealsIntoEntry`. -/
theorem witness_seals :
    (let s := capturing closing (captured .sealing 60) .writing
     s.cache.line 7 = ⟨.writing, some 5, false, []⟩ ∧ s.dir.block 5 = some (.chained 9 none)) ∧
    (let s := sealing (.greeting 1 .name)
     s.recording 9 = some { captured .sealing 60 with purpose := .greeting 1 .name } ∧
     s.unwritten 9 = false ∧ s.portFilling 9 = some 31 ∧ (s.box 1).state ≠ .unassigned ∧
     (s.box 1).greeting .name = none) ∧
    (sealing (.greeting 2 .busy)).unwritten 9 = false ∧
    ((sealing (.greeting 2 .busy)).box 2).state = .unassigned ∧
    (sealing (.prompt 511)).dir.prompts.find 511 = some 0 ∧
    (sealing (.list 255 true)).members 255 = some [0, 1] ∧
    (sealing (.list 254 true)).members 254 = none ∧ (sealing (.list 255 true)).jobs = [] ∧
    Config.maxJobs ≤ ({ sealing (.list 255 true) with jobs := (withJobs 8).jobs } : State).jobs.length ∧
    (captured .sealing 60).references = 1 := by
  decide +kernel

/-! ## Witnesses: queues, fades and completions -/

/-- A port whose list is `segs`, with the last frame of its first segment queued. -/
def finishing (segs : List Segment) : Port :=
  { playing with
    level := some ⟨1, segs, 15⟩, playout := [⟨1, 15, silentFrame⟩], next := none, fadeIn := some 8 }

/-- A segment that marks the message of box 0. -/
def segMark : Segment := { segA with kind := .message 0 true }

/-- A port in step `n` of its STOP fade, with `xs` queued. -/
def fadingQueue (n : Nat) (xs : List QueuedFrame) : Port :=
  { fading n with playout := xs, fadeIn := some 1 }

/-- Meets hypotheses of `Obligations.FrameTimeServesPorts`: a fade's frames, and a segment's last. -/
theorem witness_fade_and_completion :
    ((withPort (fadingQueue 8 [queued])).port 31).stopFade = some ⟨8, false⟩ ∧ 8 ≤ 8 ∧
    ((withPort (fadingQueue 8 [queued])).port 31).playout = queued :: [] ∧
    queued.number + 1 < segA.stop ∧ ((withPort (fadingQueue 1 [])).port 31).next = none ∧
    (let s := withPort (finishing [segMark, segA])
     (s.port 31).stopFade = none ∧ (s.port 31).playout = ⟨1, 15, silentFrame⟩ :: [] ∧
     15 + 1 = segMark.stop ∧ 1 < (recordingOf 3).references ∧ segA.start < segA.stop ∧
     segA.kind ≠ .tone ∧ s.dir.entryFor 0 0 = some 0 ∧ s.entry 0 = some entryA ∧
     entryA.state = .new) ∧
    (let s := withPort { finishing [segA] with stack := [⟨2, [segA], 0⟩] }
     (s.port 31).stack = ⟨2, [segA], 0⟩ :: [] ∧ (s.port 31).op = none ∧ 0 < segA.stop) ∧
    ((withPort (finishing [segA])).port 31).stack = [] ∧ (∀ b, segA.kind ≠ .message b true) := by
  refine ⟨rfl, by decide, rfl, by decide, rfl, ?_, ?_, rfl, nofun⟩ <;> decide +kernel

/-- A port at frame `f` of recording 0 with one frame queued, and block 0 on line 0 in state `l`. -/
def copying (f : Nat) (l : LineState) : State :=
  { withPort { playing with playout := [queued], next := some (1, f), lookahead := [0] } with
    cache := { Cache.cold with lines := ⟨[(0, ⟨l, some 0, false, []⟩)]⟩ } }

/-- Meets hypotheses of `Obligations.FrameTimeServesPorts`: what a copy finds. -/
theorem witness_copies :
    ((copying 15 .clean).port 31).level = some ⟨1, [segA], 0⟩ ∧
    ((copying 15 .clean).port 31).next = some (1, 15) ∧
    (⟨1, [segA], 0⟩ : Level).from 1 = segA :: [] ∧
    (⟨1, [Segment.callTone], 0⟩ : Level).from 1 = Segment.callTone :: [] ∧
    (copying 15 .clean).blockOf 0 15 = some 0 ∧ (copying 15 .clean).recCoding 0 = .full ∧
    (copying 15 .clean).cache.lineOf 0 = some 0 ∧ (base.cache).lineOf 0 = none ∧
    ((copying 15 .clean).cache.line 0).state = .clean ∧
    ((copying 15 .error).cache.line 0).state = .error ∧
    ((copying 15 .filling).cache.line 0).state ≠ .clean ∧
    ((copying 15 .filling).cache.line 0).state ≠ .error ∧
    (copying 15 .clean).dir.settings.depth 31 = 16 ∧ segA.stop ≤ 15 + 1 ∧
    ((copying 15 .filling).copyNext 31).2 = false := by
  decide +kernel

/-! ## Witnesses: captures that grow and end -/

/-- A capture whose tail block 5 is full, with a pool. -/
def growing (pool : Pool) (op : Option FlashOp) : State :=
  let s := capturing (heard { Detector.initial with talkSeen := true, state := .talk })
    (captured .opened 64) .modified
  { s with dir := { s.dir with pool := pool }, cache := { s.cache with inFlight := op } }

/-- Meets hypotheses of `Obligations.CaptureStoresAndEnds`: growth, and the end on an empty pool. -/
theorem witness_capture_grows :
    (let s := growing ⟨[⟨1, 1⟩]⟩ (some ⟨false, 9, 9⟩)
     s.dir.pool.take = some (1, ⟨[]⟩) ∧ s.dir.block 1 = none ∧
     s.dir.block 5 = some (.chained 9 none) ∧ s.cache.allocatable = some 0 ∧
     s.cache.lineOf 1 = none ∧ s.cache.inFlight ≠ none ∧ s.cache.lineOf 5 = some 7 ∧
     (s.cache.line 7).state = .modified ∧ s.recording 9 = some (captured .opened 64) ∧
     64 = 1 * Coding.compact.fpb) ∧
    (let s := growing ⟨[]⟩ none
     s.dir.pool.take = none ∧ (s.port 31).capture ≠ [] ∧ (s.port 31).detector.quietDue = false ∧
     s.dir.chainOf (captured .opened 64) = [5] ∧ Config.minFrames ≤ 64 - 0 ∧
     s.dir.ownerOf 5 = some 9) := by
  decide +kernel

/-- Meets hypotheses of `Obligations.CaptureStoresAndEnds`: a line has one pin, and the cache is
canonical and quiet. -/
theorem witness_capture_cache :
    (growing ⟨[]⟩ none).cache.canonical ∧ (growing ⟨[]⟩ none).cache.quiet ∧
    ∀ q, q ≠ 31 → (growing ⟨[]⟩ none).cache.pins.find q ≠ some 7 := by
  refine ⟨⟨rfl, rfl⟩, ⟨rfl, rfl, rfl, rfl⟩, fun q h => ?_⟩
  show rowFind [(31, 7)] q ≠ _
  simp [rowFind, Ne.symm h]

/-! ## Witnesses: path tests at a frame time -/

/-- An ECHO test that has primed, with `n` frames queued. -/
def echoing (n : Nat) (primed : Bool) : Port :=
  { testing .echo none with
    playout := List.replicate n ⟨0, 0, silentFrame⟩
    pathTest := some ⟨.echo, 23, 18, 1, [], false, none, 0, 0, false, [], 0, [], primed⟩ }

/-- The test of a checker that has `h` bits of history and a run of `r`. -/
def checking (h r : Nat) (sync : Bool) : PathTest :=
  ⟨.patternLine, 15, 14, 1, [], false, none, 0, 0, sync, List.replicate h false, r, [], false⟩

/-- Meets hypotheses of `Obligations.PathTestsStart`. -/
theorem witness_path_frames :
    ((withPort (echoing 7 false)).port 31).state = .test ∧
    ((withPort (echoing 7 false)).port 31).playout.length < base.dir.settings.depth 31 ∧
    ((withPort (echoing 16 true)).port 31).playout =
      ⟨0, 0, silentFrame⟩ :: List.replicate 15 ⟨0, 0, silentFrame⟩ ∧
    base.dir.settings.depth 31 ≤ ((withPort (echoing 16 true)).port 31).playout.length ∧
    (checking 0 0 false).register = [] ∧ 1 ≤ (checking 0 0 false).y ∧
    (checking 0 0 false).y < (checking 0 0 false).n ∧ (checking 0 0 false).single = false ∧
    (checking 0 0 false).rate = none ∧ ({ checking 0 0 false with single := true }).single = true ∧
    ({ checking 0 0 false with rate := some 1, rateCount := 9 }).rateCount + 1 = 10 ^ 1 ∧
    (checking 14 0 false).history.length < (checking 14 0 false).n ∧
    (checking 15 31 false).n ≤ (checking 15 31 false).history.length ∧
    (checking 15 31 false).run + 1 = 32 ∧ (checking 15 0 true).inSync = true := by
  decide

/-! ## Witnesses: the lamp queue, probes and orders with no box -/

/-- Two lamps of shelves 63 and 64 queued in box order, with shelf 63 in state `h`. -/
def twoQueued (h : Shelf) (due : List Nat) : State :=
  { base with
    lamps := ⟨[(0, { lampOn 255 .queued with station := some (63, 1) }), (1, lampOn 255 .queued)]⟩
    lampQueue := [0, 1]
    line := { LampLine.cold with shelves := ⟨[(63, h)]⟩, probesDue := due } }

/-- Meets hypotheses of `Obligations.DownLineSendsInOrder`: a box passed over, and a due probe. -/
theorem witness_down_line_skips :
    (let s := twoQueued { Shelf.cold with up := false } []
     s.line.orders.length < Config.lampSlots ∧ s.lampQueue = [0] ++ 1 :: [] ∧
     (s.lamp 1).station = some (64, 255) ∧ (s.shelf 63).up = false ∧ s.line.probesDue = [] ∧
     (s.shelf 64).up = true ∧ (s.shelf 64).pausedUntil = none) ∧
    (let s := twoQueued { Shelf.cold with up := false } [64, 63]
     s.line.probesDue = [64] ++ 63 :: [] ∧ s.lampQueue = [] ++ 0 :: [1] ∧
     (s.lamp 0).station = some (63, 1) ∧ (s.shelf 63).pausedUntil = none) := by
  decide

/-- Meets hypotheses of `Obligations.DownLineSendsInOrder`: which shelves take an order or a probe. -/
theorem witness_takes :
    (twoQueued { Shelf.cold with up := false } []).takesOrder 64 ∧
    ¬ (twoQueued { Shelf.cold with up := false } []).takesOrder 63 ∧
    (twoQueued { Shelf.cold with up := false } []).takesProbe 63 ∧
    ¬ (twoQueued { Shelf.cold with up := false } []).takesProbe 64 :=
  ⟨⟨rfl, rfl, nofun⟩, fun h => absurd h.1 (by decide), ⟨rfl, rfl, nofun, 0, by decide, 1, rfl⟩,
    fun h => absurd h.1 (by decide)⟩

/-- The base with a probe in flight for a DOWN shelf, its box IN_FLIGHT and another box FAILED. -/
def probing (box : Option Nat) : State :=
  { base with
    lamps := ⟨[(0, lampOn 255 .inFlight), (1, lampOn 1 .failed)]⟩
    line := failing (orderA box 0 true true) 3 false }

/-- Meets hypotheses of `Obligations.ShelfAnswersActOnRecords`: a probe with its box, canonical, and an
order whose box is gone. -/
theorem witness_probe_answers :
    (probing (some 0)).canonical ∧
    (probing (some 0)).line.orderOf 64 = some (orderA (some 0) 0 true true) ∧
    ((probing (some 0)).lamp 0).station = some (64, (orderA (some 0) 0 true true).station) ∧
    (probing (some 0)).mappedTo 64 = [0, 1] ∧ ((probing (some 0)).lamp 1).state = .failed ∧
    ({ base with line := ordering (orderA none 0 false true) } : State).line.orderOf 64 =
      some (orderA none 0 false true) :=
  ⟨⟨⟨rfl, rfl, rfl, rfl, rfl, rfl, rfl⟩, ⟨rfl, rfl⟩, rfl, rfl, rfl, rfl⟩, rfl, rfl, rfl, rfl, rfl⟩

/-! ## Witnesses: the books -/

/-- Meets hypotheses of `Obligations.StepKeepsCanonicalForm`. -/
theorem witness_commanded_booked : commanded.booked where
  left := Directory.initialised_books
  right := {
    once := List.nodup_nil
    queued := fun _ => ⟨nofun, nofun⟩
    flying := fun _ => nofun
    served := nofun
    unmapped := fun _ _ => rfl
    apart := fun _ _ _ => nofun }

/-- Meets hypotheses of `Obligations.ReferencesCountNames`. -/
theorem witness_commanded_holds : HoldBooks commanded where
  count := fun _ => rfl
  range := fun _ _ => nofun
  filling := fun _ _ => nofun
  filled := fun _ _ => nofun
  ports := fun _ => ⟨fun h => absurd rfl h, fun _ => ⟨rfl, rfl⟩, fun _ => rfl, fun _ _ => nofun⟩
  cleared := fun _ g _ => by cases g <;> rfl
  numbers := List.nodup_nil
  formatting := nofun

/-- Meets hypotheses of `Obligations.StepKeepsCacheBooks`. -/
theorem witness_commanded_cached : CacheBooks commanded where
  tags := fun _ _ _ => nofun
  held := fun _ _ => nofun
  unwritten := fun _ h => by rcases h with h | h <;> cases h
  writes := ⟨List.nodup_nil, nofun⟩
  fills := ⟨List.nodup_nil, nofun⟩
  flying := nofun
  waiting := ⟨List.nodup_nil, nofun⟩
  fits := fun _ _ => nofun
  opened := fun _ _ _ _ => nofun

/-- The blocks of a pool of one run. -/
theorem one_run (a n : Nat) : (⟨[⟨a, n⟩]⟩ : Pool).blocks = (List.range n).map (a + ·) := by
  simp [Pool.blocks, Run.blocks]

/-- Meets hypotheses of `Obligations.ColdStartRecoversDirectory` and `Obligations.WarmRestartRecovers`:
the blocks of the base in order. -/
theorem witness_base_books : StoreBooks base.dir where
  once := by
    have e : base.dir.pool = ⟨[⟨1, 262143⟩]⟩ := rfl
    rw [e, one_run]
    exact List.nodup_range.map fun _ _ h => Nat.add_left_cancel h
  free := fun b => by
    have e : base.dir.pool = ⟨[⟨1, 262143⟩]⟩ := rfl
    have k : base.dir.block b = rowFind [(0, .chained 0 none)] b := rfl
    rw [e, one_run, k, show Config.numBlocks = 262143 + 1 from rfl]
    generalize 262143 = n
    simp only [List.mem_map, List.mem_range]
    by_cases h : 0 = b
    · subst h; simp [rowFind]
    · simp only [rowFind, h, if_false, and_true]
      exact ⟨fun ⟨a, ha, e⟩ => by omega, fun hb => ⟨b - 1, by omega, by omega⟩⟩
  range := fun b h => by
    by_cases e : 0 = b
    · subst e; decide
    · exact absurd (by show rowFind [(0, _)] b = none; simp [rowFind, e]) h
  chains := fun r v h => by
    by_cases e : 0 = r
    · subst e; cases h
      exact ⟨by decide, by decide, by decide, by decide, by decide⟩
    · simp [base, Table.find, rowFind, e] at h
  owned := fun b r n h => by
    by_cases e : 0 = b
    · subst e; cases h
      exact ⟨_, rfl, by decide⟩
    · simp [base, Directory.block, Table.find, rowFind, e] at h

/-- Meets hypotheses of `Obligations.ColdStartRecoversDirectory` and `Obligations.WarmRestartRecovers`. -/
theorem witness_recovery :
    base.dir.canonical ∧ base.recording 0 = some (recordingOf 3) ∧ 0 < base.dir.namesOf 0 ∧
    (probing (some 0)).canonical :=
  ⟨⟨rfl, rfl, rfl, rfl, rfl, rfl, rfl⟩, rfl, by decide, witness_probe_answers.1⟩

/-! ## Witnesses: the end of the tone, and the ends of operations -/

/-- An operation in its tone: a RECORD, or an ANSWER, into box 1. -/
def opTone (answer : Bool) : OpRecord :=
  ⟨answer, .box 1, .tone, true, true, 6000, false, none, true, none, false, none, none⟩

/-- A port that plays the tone, its last frame queued. -/
def tonePort (answer : Bool) : Port :=
  { idlePort with
    state := .playing, op := some (opTone answer), fadeIn := some 8
    level := some ⟨2, [Segment.callTone], 24⟩, playout := [⟨2, 24, silentFrame⟩] }

/-- That port in the base with a pool, recording 0 in prompt 3. -/
def toning (answer : Bool) (pool : Pool) (refs : Nat) : State :=
  { withPort (tonePort answer) with dir := { base.dir with
    pool := pool, prompts := ⟨[(3, 0)]⟩, recordings := ⟨[(0, recordingOf refs)]⟩ } }

/-- Meets hypotheses of `Obligations.ToneEndOpensRecording`. -/
theorem witness_tone_ends (answer : Bool) (pool : Pool) (n : Nat) :
    (toning answer pool n).running = true ∧ (toning answer pool n).link.clear ∧
    31 < Config.numPorts ∧ ((toning answer pool n).port 31).state = .playing ∧
    ((toning answer pool n).port 31).op = some (opTone answer) ∧ (opTone answer).phase = .tone ∧
    ((toning answer pool n).port 31).stopFade = none ∧ ((toning answer pool n).port 31).stack = [] ∧
    ((toning answer pool n).port 31).level = some ⟨2, [Segment.callTone], 24⟩ ∧
    (toning answer pool n).cache.pins.find 31 = none ∧
    ((toning answer pool n).port 31).slot = some 127 ∧
    (∀ q, q ≠ 31 → ((toning answer pool n).port q).stopFade = none ∧
      ((toning answer pool n).port q).slot = none) ∧
    ((toning answer pool n).port 31).playout = ⟨2, 24, silentFrame⟩ :: [] ∧
    24 + 1 = Segment.callTone.stop ∧ ((toning answer pool n).port 31).fadeIn = some 8 ∧
    (opTone true).target = .box 1 := by
  refine ⟨rfl, ⟨rfl, rfl⟩, by decide, rfl, rfl, rfl, rfl, rfl, rfl, rfl, rfl, fun q h => ?_, rfl, rfl,
    rfl, rfl⟩
  have e : (toning answer pool n).port q = Port.cold := by
    show Table.read Port.cold ⟨[(31, _)]⟩ q = _
    simp [Table.read, Table.find, rowFind, Ne.symm h]
  rw [e]; exact ⟨rfl, rfl⟩

/-- Meets hypotheses of `Obligations.ToneEndOpensRecording`: an open that is made, and three that are
refused. -/
theorem witness_opens :
    (toning false ⟨[⟨1, 1⟩]⟩ 3).dir.recordings.lowestFree Config.numRecordings = some 1 ∧
    (toning false ⟨[⟨1, 1⟩]⟩ 3).dir.pool.take = some (1, ⟨[]⟩) ∧
    (toning true ⟨[]⟩ 3).dir.pool.take = none ∧ (opTone false).answer = false ∧
    (toning true ⟨[]⟩ 16382).dir.prompts.find 3 = some 0 ∧
    (toning true ⟨[]⟩ 16382).recording 0 = some (recordingOf 16382) ∧
    (recordingOf 16382).references < Config.maxRefs ∧ 0 < (recordingOf 16382).frames ∧
    (toning true ⟨[]⟩ 16383).recording 0 = some (recordingOf 16383) ∧
    Config.maxRefs ≤ (recordingOf 16383).references := by decide

/-- A port whose operation plays, in a STOP fade or none. -/
def operating (phase : Phase) (held noDeposit : Bool) (segs : List Segment) (fade : Option StopFade) :
    Port :=
  { playing with
    op := some { opPlaying with phase := phase, depositHeld := held, noDeposit := noDeposit }
    level := some ⟨1, segs, 0⟩, stopFade := fade }

/-- Meets hypotheses of `Obligations.StoppingPorts`. -/
theorem witness_operation_stops (phase : Phase) (held noDeposit : Bool) (segs : List Segment)
    (fade : Option StopFade) :
    (withPort (operating phase held noDeposit segs fade)).ready ∧ 31 < Config.numPorts ∧
    (withPort (operating phase held noDeposit segs fade)).port 31 =
      operating phase held noDeposit segs fade :=
  ⟨withPort_ready _, by decide, Table.read_write_same _ _ _ _⟩

/-- Meets hypotheses of `Obligations.StoppingPorts`: the fades of operations, and captures that are
abandoned. -/
theorem witness_operation_fades :
    (let q := operating .refusal false false [segA] (some ⟨8, false⟩)
     q.state = .playing ∧ q.stopFade = some ⟨8, false⟩ ∧ q.level = some ⟨1, [segA], 0⟩) ∧
    (operating .greeting false true [segA] (some ⟨1, true⟩)).stopFade = some ⟨1, true⟩ ∧
    segA.refusal = false ∧ (operating .greeting true false [segA] none).stopFade = none ∧
    (let h : Segment := { segA with kind := .prompt, refusal := true }
     [segA, h] = [segA] ++ [h] ∧ h.refusal = true ∧ h.start < h.stop) ∧
    (let s := capturing (recordingPort 1) (captured .opened 60) .modified
     s.ready ∧ (s.port 31).state = .recording ∧ (s.port 31).op = some opB ∧ opB.recording = some 9 ∧
     s.recording 9 = some (captured .opened 60) ∧ (captured .opened 60).references = 1 ∧
     (s.port 31).playHolds = []) ∧
    (let s := capturing closing (captured .sealing 60) .writing
     s.ready ∧ (s.port 31).state = .closing ∧ (s.port 31).playHolds = []) :=
  ⟨⟨rfl, rfl, rfl⟩, rfl, rfl, rfl, ⟨rfl, rfl, by decide⟩,
    ⟨⟨rfl, rfl, rfl⟩, rfl, rfl, rfl, rfl, rfl, rfl⟩, ⟨rfl, rfl, rfl⟩, rfl, rfl⟩

/-- Meets hypotheses of `Obligations.CaptureStoresAndEnds`: STOP and RELEASE, and a capture of under 50
frames. -/
theorem witness_capture_stopped :
    (let s := capturing (heard { Detector.initial with talkSeen := true, state := .talk })
        (captured .opened 49) .modified
     s.link.clear ∧ (s.port 31).detector.talkSeen = true ∧
     (captured .opened 49).frames - 0 < Config.minFrames ∧ (captured .opened 49).references = 1 ∧
     (s.port 31).playHolds = []) :=
  ⟨⟨rfl, rfl⟩, rfl, by decide, rfl, rfl⟩

/-- A table with a row for every number below `n` has no free one. -/
theorem full_table {α : Type} (v : α) (n : Nat) :
    (⟨(List.range n).map fun k => (k, v)⟩ : Table α).lowestFree n = none := by
  have row : ∀ (l : List Nat) (k : Nat), k ∈ l → rowFind (l.map fun k => (k, v)) k = some v := by
    intro l
    induction l with
    | nil => exact nofun
    | cons a l ih =>
      intro k hk
      by_cases e : a = k
      · simp [rowFind, e]
      · simpa [rowFind, e] using ih k (by simpa [Ne.symm e] using hk)
  refine leastFrom_none fun k _ hk => ?_
  simp [Table.find, row (List.range n) k (List.mem_range.mpr (by simpa using hk))]

/-- A deposit that seals where every entry of the pool is taken. -/
def crowded : State :=
  let s := capturing closing (captured .sealing 60) .clean
  { s with dir := { s.dir with
    entries := ⟨(List.range Config.numEntries).map fun k => (k, { entryA with box := 2 })⟩ } }

/-- Meets hypotheses of `Obligations.DepositSealsIntoEntry`: no free entry, and a discard mark. -/
theorem witness_unsealed :
    crowded.dir.entries.lowestFree Config.numEntries = none ∧ crowded.dir.entryFor 1 9 = none ∧
    crowded.recording 9 = some (captured .sealing 60) ∧ crowded.unwritten 9 = false ∧
    crowded.portFilling 9 = some 31 ∧ (crowded.port 31).playHolds = [] ∧
    (let v := { captured .sealing 60 with discard := true }
     let s := capturing closing v .clean
     s.recording 9 = some v ∧ v.discard = true ∧ v.references = 1 ∧ s.unwritten 9 = false ∧
     s.portFilling 9 = some 31) :=
  ⟨full_table _ _, rfl, rfl, rfl, rfl, rfl, rfl, rfl, rfl, rfl, rfl⟩

/-- Meets hypotheses of `Obligations.FailedWriteRemapsBlock`: a cut that leaves no recording. -/
theorem witness_cut_away :
    (let s := remapping closing .sealing ⟨[]⟩ 5
     s.dir.chainOf (spread .sealing) = [] ++ 5 :: [6, 7] ∧ s.portFilling 9 = some 31 ∧
     (s.port 31).op = some { opB with phase := .closing } ∧ (spread .sealing).references = 1 ∧
     (s.port 31).playHolds = [] ∧ 0 * Coding.compact.fpb < Config.minFrames) ∧
    (let s := remapping (recordingPort 0) .opened ⟨[]⟩ 6
     s.dir.chainOf (spread .opened) = [5] ++ 6 :: [7] ∧ (s.port 31).detector.talkSeen = false ∧
     (s.port 31).op = some opB) ∧
    (let s := remapping { recordingPort 0 with
        detector := { Detector.initial with state := .talk, talkSeen := true } } .opened ⟨[]⟩ 5
     (s.port 31).detector.talkSeen = true ∧ s.portFilling 9 = some 31) := by
  decide +kernel

/-! ## Witnesses: members passed over, a RECALL, and lamps -/

/-- Meets hypotheses of `Obligations.JobStepServesMember`: members passed over, and an entry pool or a
recording that is full. -/
theorem witness_members_passed :
    (let s := ({ withJob (jobAt (.at 1)) with dir := (base.setBox 1
        { boxB with pendingDeposits := 48 }).dir } : State)
     (s.box 1).state = .active ∧
     (s.dir.profile 1).maxMessages ≤ (s.box 1).messages.length + (s.box 1).pendingDeposits) ∧
    (let s := withJob (jobAt (.at 0))
     (s.box 0).state = .active ∧ s.dir.entryFor 0 0 ≠ none ∧
     (s.box 0).messages.length + (s.box 0).pendingDeposits < (s.dir.profile 0).maxMessages) ∧
    (let s := (withJob (jobAt (.at 1))).setRecording 0 (recordingOf 16383)
     s.recording 0 = some (recordingOf 16383) ∧ Config.maxRefs ≤ (recordingOf 16383).references ∧
     1 < (recordingOf 16383).references) ∧
    (recordingOf 3).references < Config.maxRefs ∧
    ({ base.dir with entries := ⟨(List.range Config.numEntries).map fun k => (k, entryA)⟩ } :
      Directory).entries.lowestFree Config.numEntries = none :=
  ⟨by decide, by decide, by decide, by decide, full_table _ _⟩

/-- A RECALL of recording 0 on the last box, which has an entry for it. -/
def lastRecall : State :=
  { base with
    jobs := [{ jobAt (.at 16383) with list := none }]
    dir := { base.dir with
      boxes := ⟨[(16383, boxA)]⟩, entries := ⟨[(0, { entryA with box := 16383 })]⟩ } }

/-- Meets hypotheses of `Obligations.JobStepServesMember`: a RECALL that removes an entry. -/
theorem witness_recall :
    (let s := withJob { jobAt (.at 0) with list := none }
     s.dir.entryFor 0 0 = some 0 ∧ s.entry 0 = some entryA ∧ entryA.box = 0 ∧
     (s.box 0).messages.Nodup ∧ 0 + 1 < Config.numBoxes) ∧
    lastRecall.dir.entryFor 16383 0 = some 0 ∧
    lastRecall.entry 0 = some { entryA with box := 16383 } ∧ Config.numBoxes ≤ 16383 + 1 ∧
    lastRecall.recording 0 = some (recordingOf 3) ∧ 2 < (recordingOf 3).references ∧
    (withJob { jobAt (.at 16383) with list := none }).dir.entryFor 16383 0 = none := by decide

/-- Meets hypotheses of `Obligations.LampMapping`: records that wait, fly or stand in the queue. -/
theorem witness_lamp_rows :
    (let s := lit .waiting [] LampLine.cold
     (s.lamp 0).station ≠ none ∧ s.dir.wanted 0 .new ≠ (s.lamp 0).wanted ∧ (s.lamp 0).state = .waiting) ∧
    ((lit .inFlight [] LampLine.cold).lamp 0).state = .inFlight ∧
    ((lit .queued [0] LampLine.cold).lamp 0).confirmed ≠ some (base.dir.wanted 0 .new) ∧
    (let s := ({ lit .queued [0] { LampLine.cold with sending := some (.ack 1 0) } with
        lamps := ⟨[(0, { lampOn 255 .queued with confirmed := some .steady })]⟩ } : State)
     (s.lamp 0).confirmed = some (s.dir.wanted 0 .new) ∧ s.dir.wanted 0 .new ≠ (s.lamp 0).wanted ∧
     s.lampQueue.Nodup ∧ s.line.sending ≠ none) := by decide

/-- Meets hypotheses of `Obligations.CompandingTakesLargestBelow`. -/
theorem witness_compact_lengths :
    (List.replicate 40 (0 : Byte)).length = 40 ∧ silentFrame.length = 160 := ⟨rfl, rfl⟩

/-! ## Witnesses: segments, greetings, and the fade before a tone -/

/-- Meets hypotheses of `Obligations.PlayAndInterjectStartLists`: segments of each kind. -/
theorem witness_segments :
    base.dir.resolve (.index 0) = .ok 0 ∧ base.dir.resolve (.index 2) = .error (.noBox, 0) ∧
    (base.box 0).messages[1 - 1]? = some 0 ∧ base.entry 0 = some entryA ∧
    base.recording entryA.recording = some (recordingOf 3) ∧ (base.box 0).messages.length < 48 ∧
    greetingSlotOf 0 = some .standard ∧ (base.box 0).greeting .standard = some 0 ∧
    greetingSlotOf 3 = some .name ∧ (base.box 0).greeting .name = none ∧
    base.dir.prompts.find 511 = some 0 ∧ 511 < 512 ∧ base.dir.prompts.find 510 = none ∧
    Config.numRecordings ≤ 65536 ∧ 0 < Config.numRecordings ∧ (recordingOf 3).state = .sealed ∧
    recordingGreeting.recording 0 = some { recordingOf 3 with state := .opened, purpose := .greeting 0 .name } ∧
    [SegmentSpec.tone, .recording 1 0] = [.tone] ++ .recording 1 0 :: [] ∧
    base.resolveSegment .tone = .ok Segment.callTone ∧
    base.resolveSegment (.recording 1 0) = .error (.noRecording, 0) := by
  refine ⟨rfl, rfl, rfl, rfl, rfl, by decide, rfl, rfl, rfl, rfl, rfl, by decide, rfl, by decide, by decide,
    rfl, rfl, rfl, rfl, rfl⟩

/-- Meets hypotheses of `Obligations.PlayAndInterjectStartLists`: a segment that does not resolve, of which
INTERJECT gives the reason alone (R122, R179). -/
theorem witness_interject_unresolved :
    (withPort (stacked 2)).resolveSegments 1 [.tone, .recording 1 0] = .error (.noRecording, 2) ∧
    withoutDetail ((withPort (stacked 2)).resolveSegments 1 [.tone, .recording 1 0]) =
      .error (.noRecording, 0) := ⟨rfl, rfl⟩

/-- Meets hypotheses of `Obligations.AnswerStartsOperation`: the default greeting. -/
theorem witness_default_greeting :
    (base.box 0).name = none ∧ (base.setBox 0 { boxA with name := some 0 }).dir.box 0 =
      { boxA with name := some 0 } := ⟨rfl, rfl⟩

/-- Extension 0412 is spoken with prompts 10, 14, 11 and 12 (R80). -/
theorem test_extension_spoken :
    (let s := ({ base with dir := { base.dir with
        prompts := ⟨[(10, 0), (11, 1), (12, 2), (14, 4)]⟩
        boxes := ⟨[(0, { boxB with ext := [0x30, 0x34, 0x31, 0x32] })]⟩ } } : State)
     (s.greetingList 0 .default).map Segment.recording = [some 0, some 4, some 1, some 2]) := by
  decide

/-- Meets hypotheses of `Obligations.FrameTimeServesPorts`: a frame before a tone, within a STOP fade and
outside one. -/
theorem witness_before_tone :
    (let q : Port := { playing with
       level := some ⟨1, [segA, Segment.callTone], 0⟩, playout := [⟨1, 8, silentFrame⟩], fadeIn := some 3 }
     q.stopFade = none ∧ q.playout = ⟨1, 8, silentFrame⟩ :: [] ∧ 8 + 8 = segA.stop ∧
     Segment.callTone.kind = .tone) ∧
    (fadingQueue 8 [⟨1, 15, silentFrame⟩]).stopFade = some ⟨8, false⟩ ∧ 15 + 1 = segA.stop ∧
    ((withPort answeringPort).port 31).op = some opPlaying ∧ opPlaying.phase = .greeting ∧
    opPlaying.depositHeld = true := by decide +kernel

/-! ## Witnesses: the pool level, fades over a stack, and ends of an ANSWER's list -/

/-- A RUNNING module at a pool level, with `n` blocks in the pool and the others retired from it. -/
def pooled (v : PoolLevel) (n : Nat) : State :=
  { base with dir := { base.dir with poolLevel := v, pool := Pool.range 1 n } }

/-- Meets hypotheses of `Obligations.FreedBlockDrainsOrPools`: a count at each threshold, and a block that
can be taken. -/
theorem witness_pool_level :
    (pooled .critical 6143).running = true ∧
    (pooled .critical 6143).dir.poolLevel.step (6143 + 1) ≠ (pooled .critical 6143).dir.poolLevel ∧
    (pooled .low 20478).dir.poolLevel.step (20478 + 1) = (pooled .low 20478).dir.poolLevel ∧
    (pooled .normal 16384).dir.pool.size = 16383 + 1 ∧
    ((pooled .normal 16384).takeBlock.map Prod.fst) = some 1 ∧
    PoolLevel.normal.step 16383 ≠ .normal ∧ PoolLevel.low.step 4095 ≠ .low ∧
    (starting .warm).running = false := by decide

/-- Meets hypotheses of `Obligations.FailedWriteRemapsBlock`: the write of a DRAINING block. -/
theorem witness_draining_fails :
    draining.running = true ∧ draining.cache.inFlight = some ⟨true, 0, 0⟩ ∧
    draining.cache.waitQueue = [] ∧ draining.dir.block 0 = some .draining ∧
    draining.cache.line 0 = ⟨.writing, some 0, true, []⟩ := ⟨rfl, rfl, rfl, rfl, rfl⟩

/-- The base with an urgent NEW, a HEARD and a KEPT entry beside the NEW one. -/
def banded : Directory :=
  { base.dir with entries := ⟨[(0, entryA), (1, { entryA with urgent := true }),
    (2, { entryA with state := .heard }), (3, { entryA with state := .kept })]⟩ }

/-- Meets hypotheses of `Obligations.MarkMovesEntry`: a list in band order. -/
theorem witness_bands :
    banded.entries.find 2 = some { entryA with state := .heard } ∧
    [1, 0, 2, 3].Pairwise (fun i j => banded.bandOf i ≤ banded.bandOf j) := by decide

/-- R47: a new NEW entry stands behind the NEW ones and before the HEARD ones. -/
theorem test_place : banded.place 1 9 [1, 0, 2, 3] = [1, 0, 9, 2, 3] := by decide

/-- Meets hypotheses of `Obligations.RecordStartsTone`: codes at the ends of their ranges. -/
theorem witness_target_codes :
    targetCodes (.greeting (.index 0) 3) = .ok () ∧ targetCodes (.prompt 511) = .ok () ∧
    targetCodes (.prompt 512) = .error (.range, 0) ∧ targetCodes (.list 255 1) = .ok () ∧
    targetCodes (.list 256 0) = .error (.range, 0) ∧
    targetCodes (.box [] 1 (some [0x31])) = .error (.range, 0) ∧ Config.numPorts ≤ 32 ∧
    base.members 255 = some [0, 1] ∧ base.members 254 = none ∧ greetingSlotOf 3 = some .name ∧
    base.dir.resolve (.index 1) = .ok 1 := by decide

/-- A port in its STOP fade, at step `n`, with a level stacked. -/
def fadingStack (n : Nat) (all : Bool) : Port :=
  { fading n with stopFade := some ⟨n, all⟩, stack := [⟨2, [segA, Segment.callTone], 3⟩] }

/-- Meets hypotheses of `Obligations.StoppingPorts` and `Obligations.FrameTimeServesPorts`: fades that end
over a stacked level, with the all flag of the first STOP, of the second, and of neither. -/
theorem witness_fade_over_stack :
    (withPort (fadingStack 9 false)).ready ∧ ((withPort (fadingStack 9 true)).port 31).stopFade =
      some ⟨9, true⟩ ∧ (true || false) = true ∧ (false || true) = true ∧ (false || false) = false ∧
    ((withPort (fadingStack 9 false)).port 31).stack = ⟨2, [segA, Segment.callTone], 3⟩ :: [] ∧
    3 < segA.stop ∧ ((withPort (fadingStack 9 false)).port 31).op = none ∧
    (operating .greeting true false [segA] (some ⟨9, false⟩)).stopFade = some ⟨9, false⟩ :=
  ⟨withPort_ready _, rfl, rfl, rfl, rfl, rfl, by decide, rfl, rfl⟩

/-- Meets hypotheses of `Obligations.FrameTimeServesPorts`: the last frame of a greeting before its tone
and before its refusal prompt, and of a list that ends its operation. -/
theorem witness_list_ends :
    (let q := { finishing [segA, Segment.callTone] with op := some opPlaying }
     q.playout = ⟨1, 15, silentFrame⟩ :: [] ∧ 15 + 1 = segA.stop ∧ q.stopFade = none ∧
     Segment.callTone.start < Segment.callTone.stop) ∧
    (let h : Segment := { segA with kind := .prompt, refusal := true }
     h.refusal = true ∧ h.start < h.stop ∧ h.kind ≠ .tone) ∧
    (let q := { finishing [segA] with op := some { opPlaying with depositHeld := false, noDeposit := true } }
     q.stack = [] ∧ q.op.any (fun o => o.phase == .greeting && !o.depositHeld && o.noDeposit) = true) ∧
    (finishing [segA]).op = none := by decide +kernel

/-- A capture whose tail block has neither a line nor a wait entry, and holds no frame. -/
def unlined : State :=
  { capturing (recordingPort 3) (captured .opened 0) .modified with cache := Cache.cold }

/-- Meets hypotheses of `Obligations.FrameTimeServesPorts`: an ESTABLISH that is repeated. -/
theorem witness_establish_repeats :
    unlined.recording 9 = some (captured .opened 0) ∧
    unlined.cache.lineOf (captured .opened 0).tail = none ∧
    (captured .opened 0).frames ≤ ((captured .opened 0).blocks - 1) * Coding.compact.fpb ∧
    (∀ e ∈ unlined.cache.waitQueue, e.block ≠ (captured .opened 0).tail) := by decide

/-- Meets hypotheses of `Obligations.FrameTimeServesPorts`: a copy that goes on. -/
theorem witness_copy_goes_on :
    ((copying 14 .clean).port 31).state = .playing ∧
    ((copying 14 .clean).port 31).playout.length < (copying 14 .clean).dir.settings.depth 31 ∧
    (copying 14 .clean).dir.settings.depth 31 ≤ 64 ∧ ((copying 14 .clean).copyNext 31).2 = true := by
  decide +kernel

/-! ## Single steps, with their expected values from the manual -/

/-- What a reply with this kind and tag gives, where it is the last frame of the transmit FIFO. -/
def lastFrame (s : State) : Option OutFrame := s.link.fifo.getLast?

/-- R131 by hand: code 0x94 is segment 1, step 4, so (16 + 4) × 2 = 40; 0x85 is 2 × 5. -/
theorem test_magnitudes :
    magnitudeOf 0x94 = 40 ∧ magnitudeOf 0x85 = 10 ∧ magnitudeOf 0xFF = 3968 ∧ signedOf 0x14 = -40 := by
  decide

/-- R131 by hand: 43 lies between 42 (0x95) and 44 (0x96); 31 lies between 30 (0x8F) and 32 (0x90). -/
theorem test_compand :
    compand true 43 = 0x95 ∧ compand false 31 = 0x0F ∧ compand true 4095 = 0xFF ∧
    compand false 0 = 0x80 := by decide

/-- R132 by hand: from 0 and 16, codes 1, 1, 2, 0, 3 give 16, 48, -16, -16, 0. -/
theorem test_compact_decode :
    (decodeCodes CoderState.fresh [1, 1, 2, 0, 3]).map signedOf = [16, 48, -16, -16, 0] := by decide

/-- R133, the manual's two frames: levels 28 and 202, classes 2 and 8. -/
theorem test_level_and_class :
    frameLevel (List.replicate 100 0x94 ++ List.replicate 60 0x85) = 28 ∧
    frameClass Settings.default.thresholds (List.replicate 100 0x94 ++ List.replicate 60 0x85) = 2 ∧
    frameLevel (List.replicate 80 0xC3 ++ List.replicate 80 0xA9) = 202 ∧
    frameClass Settings.default.thresholds (List.replicate 80 0xC3 ++ List.replicate 80 0xA9) = 8 := by
  decide +kernel

/-- R143: with gain 256 a sample comes back, with 0 it is silence, with 128 magnitude 40 becomes 20. -/
theorem test_ramp :
    scaleSample 256 0x14 = 0x14 ∧ scaleSample 0 0x14 = 0x80 ∧ scaleSample 128 0x94 = 0x8A := by decide

/-- The manual's deposit at the detector: after 40 hiss frames, classes 6, 1, 7 and 9 reach TALK. -/
theorem test_detector_reaches_talk :
    let hiss := (List.replicate 40 2).foldl (fun q k => q.examine Settings.default k) idlePort
    let at43 := [6, 1, 7].foldl (fun q k => q.examine Settings.default k) hiss
    let at44 := at43.examine Settings.default 9
    hiss.detector.trailing = 40 ∧ at43.detector.state = .start ∧ at44.detector.state = .talk ∧
    at44.counters.talks = 1 ∧ at44.detector.trailing = 0 ∧ at44.detector.examined = 44 := by
  decide +kernel

/-- The manual's local loop (n 15, y 14, seed 1): the checker enters SYNC at bit 47, so that of the
first six bytes one bit is counted. -/
theorem test_local_loop :
    let t := PathTest.start .patternLocal 15 14 1
    let q : Port := { idlePort with state := .test, pathTest := some t }
    let r := q.checkFrame (t.sendBytes 6).1
    (q.checkFrame (t.sendBytes 5).1).pathTest.any PathTest.inSync = false ∧
    r.pathTest.any PathTest.inSync = true ∧ r.counters.bits = 1 ∧ r.counters.errors = 0 := by
  decide +kernel

/-- The manual's two callers: remaining 2,590 and 856, limits 2,590 and 856 (52 and 18 seconds). -/
def twoCallers (charged reserved pending : Nat) : Directory :=
  { base.dir with
    poolLevel := .low
    boxes := ⟨[(0, { boxA with
      messages := List.range 12, charged := charged, reserved := reserved
      pendingDeposits := pending })]⟩ }

theorem test_two_callers :
    (twoCallers 27410 0 0).admission 0 = none ∧ (twoCallers 27410 0 0).admissionLimit 0 = 2590 ∧
    secondsOf 2590 = 52 ∧ (twoCallers 27410 2590 1).admission 0 = some .quota ∧
    (twoCallers 29144 0 0).admissionLimit 0 = 856 ∧ secondsOf 856 = 18 ∧ secondsOf 1734 = 35 := by
  decide

/-- The manual's pool under pressure: 16,383 is LOW, 4,095 CRITICAL, 6,144 LOW, 20,480 NORMAL. -/
theorem test_pool_levels :
    PoolLevel.normal.step 16384 = .normal ∧ PoolLevel.normal.step 16383 = .low ∧
    PoolLevel.low.step 4096 = .low ∧ PoolLevel.low.step 4095 = .critical ∧
    PoolLevel.critical.step 6143 = .critical ∧ PoolLevel.critical.step 6144 = .low ∧
    PoolLevel.low.step 20479 = .low ∧ PoolLevel.low.step 20480 = .normal := by decide

/-- The manual's write-back promotion: at 1,536 the write-back goes before the urgent fill. -/
theorem test_write_promotion :
    (pressed.schedule.inFlight.map FlashOp.write) = some true ∧ pressed.schedule.urgentQueue = [1] := by
  decide +kernel

/-- Box 300 of the manual's midnight, as box 0: five entries, an absence until day 1,000. -/
def midnight : State :=
  { base with
    retention := { base.retention with
      clock := some ⟨1001, 0⟩, cursor := some 0, sweepDay := some 1001 }
    dir := { base.dir with
      recordings := ⟨[(1, { recordingOf 2 with frames := 1100 }), (2, { recordingOf 2 with frames := 800 }),
        (3, { recordingOf 2 with frames := 600 }), (4, { recordingOf 2 with frames := 2000 }),
        (5, { recordingOf 2 with frames := 1500 })]⟩
      boxes := ⟨[(0, { boxA with
        messages := [1, 2, 3, 4, 5], newCount := 2, charged := 3900, standard := none
        absent := true, untilDay := some 1000 })]⟩
      entries := ⟨[(1, ⟨1, 0, .new, false, .caller, none, some 975, none, none⟩),
        (2, ⟨2, 0, .new, false, .caller, none, some 971, none, none⟩),
        (3, ⟨3, 0, .heard, false, .broadcast, none, some 987, none, none⟩),
        (4, ⟨4, 0, .heard, false, .caller, none, none, none, none⟩),
        (5, ⟨5, 0, .kept, false, .broadcast, none, some 950, none, none⟩)]⟩ } }

theorem test_sweep_midnight :
    let t := after (exec .sweepStep midnight)
    (t.box 0).messages = [1, 4, 5] ∧ (t.box 0).charged = 3100 ∧ (t.box 0).newCount = 1 ∧
    (t.box 0).absent = false ∧ t.retention.expired = 2 ∧ t.retention.cursor = some 1 := by
  decide +kernel

/-- The minute timer at 1,439 of day 1,000 starts a pass with sweep day 1,001. -/
theorem test_minute_timer :
    let t := after (exec .minuteTimerExpiry (atDay 1000 1439 none))
    t.retention.clock = some ⟨1001, 0⟩ ∧ t.retention.sweepDay = some 1001 ∧
    t.retention.cursor = some 0 := by decide

/-- A correction of the clock during a pass marks a rerun, and the pass goes on with its day. -/
theorem test_clock_set_during_pass :
    let t := after (exec (.clockSet 0 1005 480) (atDay 1001 0 (some 9000)))
    t.retention.clock = some ⟨1005, 480⟩ ∧ t.retention.rerun = true ∧
    t.retention.sweepDay = some 1001 := by decide

/-- The manual's afternoon: marking position 3 KEPT puts it at the end of the KEPT band. -/
def afternoon : State :=
  { base with dir := { base.dir with
    boxes := ⟨[(0, { boxA with messages := [44, 80, 12, 5, 1], newCount := 3, urgentNew := 1 })]⟩
    entries := ⟨[(1, { entryA with state := .kept }), (5, { entryA with state := .heard }),
      (12, { entryA with source := .broadcast }), (44, { entryA with urgent := true }),
      (80, entryA)]⟩ } }

theorem test_mark_kept :
    let t := after (exec (.mark 7 (.index 0) 3 2) afternoon)
    (t.box 0).messages = [44, 80, 5, 1, 12] ∧ (t.box 0).newCount = 2 ∧ (t.box 0).urgentNew = 1 := by
  decide

/-- Marking the urgent message HEARD puts it at the end of the HEARD band. -/
theorem test_mark_heard :
    let t := after (exec (.mark 7 (.index 0) 1 1) afternoon)
    (t.box 0).messages = [80, 12, 5, 44, 1] ∧ (t.box 0).urgentNew = 0 := by decide

/-- The manual's busy second: a SETTLED record whose wanted cadence becomes STEADY waits 500 ms. -/
theorem test_lamp_waits :
    let s := (lit .settled [] LampLine.cold).recompute 0
    (s.lamp 0).wanted = .steady ∧ (s.lamp 0).state = .waiting ∧ (s.lamp 0).expiry = some 500 := by
  decide

/-- The settle timer's end queues it and, with the line idle, its order goes out with periods 0. -/
theorem test_settle_timer_sends :
    let t := after (exec (.settleTimerExpiry 0)
      ((lit .waiting [] LampLine.cold).setLamp 0 { lampOn 255 .waiting with wanted := .steady }))
    (t.lamp 0).state = .inFlight ∧ t.line.sending = some (.order 64 255 0 .steady 0 0) ∧
    (t.shelf 64).orders = 1 := by decide

/-- The manual's shelf that stops answering: the third failure takes it DOWN. -/
theorem test_shelf_goes_down :
    let t := after (exec (.ackTimerExpiry 64)
      (lit .inFlight [] (failing (orderA (some 0) 3 false true) 2 true)))
    (t.shelf 64).up = false ∧ (t.lamp 0).failReason = some .noAnswer ∧ t.link.flags.shelfChanged = true ∧
    t.link.flags.lampFailed = true := by decide

/-- DONE to the probe brings the shelf UP and settles the record it served. -/
theorem test_probe_answered :
    let t := after (exec (.ackDone 64 7) ((lit .inFlight [] (failing (orderA (some 0) 0 true true) 3 false)).setLamp 0
        { lampOn 255 .inFlight with wanted := .steady, sent := some .steady }))
    (t.shelf 64).up = true ∧ (t.lamp 0).state = .settled ∧ (t.lamp 0).confirmed = some .steady := by
  decide

/-- R184 by hand: STATUS with tag 5 is A5 00 00 01 05 06 00, the check being 0 + 0 + 1 + 5. -/
theorem test_status_frame :
    (after (exec (.controlFrameReceived (bytes [0xA5, 0, 0, 1, 5, 6, 0])) answering)).link.receiveQueue =
      [⟨1, 5, []⟩] ∧
    requestFrame (.status 5) = some (1, 5, []) := by decide

/-- R184 by hand: a wrong check counts a framing error. -/
theorem test_bad_check :
    (after (exec (.controlFrameReceived (bytes [0xA5, 0, 0, 1, 5, 7, 0]))
      State.reset)).link.framingErrors = 1 := by decide

/-- R185 by hand: CLOCK SET (day 1,005, minute 480) is kind 0x30, ED 03 E0 01. -/
theorem test_clock_set_body :
    requestFrame (.clockSet 9 1005 480) = some (0x30, 9, bytes [0xED, 0x03, 0xE0, 0x01]) := by decide

/-- R184 by hand: the order for shelf 12, station 40, number 0, STEADY: its check is
12 + 1 + 0 + 40 + 1 = 54. -/
theorem test_order_bytes :
    DownFrame.bytes (.order 12 40 0 .steady 0 0) =
      bytes [0x5A, 12, 1, 0, 40, 1, 0, 0, 54, 0] := by decide

/-- R177: a request on a module whose reply is unsent waits in the receive queue. -/
theorem test_request_waits :
    (after (exec (.status 4) answering)).link.receiveQueue = [⟨1, 4, []⟩] := by decide

/-- R179: in STARTING a request other than STATUS is refused with STARTING. -/
theorem test_starting_refuses :
    lastFrame (after (exec (.clockRead 4) (starting .warm))) =
      some (.refused 0x31 4 .starting 0) := by decide

/-- R16 and R182: a cold start on a lost store sends STARTED with cause COLD and 262,144 free blocks. -/
theorem test_cold_start_lost :
    lastFrame (after (exec (.powerOnColdStart false) base)) = some startedAtReset := by decide +kernel

/-- R151: a seventeenth frame is lost, counted and flagged. -/
theorem test_capture_overflow :
    let t := after (exec (.frameTime []) (withPort (recordingPort 16)))
    (t.port 31).counters.overflows = 1 ∧ (t.port 31).flags.overflow = true ∧
    (t.port 31).capture.length = 16 := by decide +kernel

/-- R150: a port with an empty queue sends silence and counts an underflow. -/
theorem test_playout_underflow :
    let t := after (exec (.frameTime []) (withPort playing))
    t.transmit = [(127, silentFrame)] ∧ (t.port 31).counters.underflows = 1 := by decide +kernel

/-- R116: a slot in use is refused with EXISTS and its port. -/
theorem test_bind_slot_in_use :
    lastFrame (after (exec (.bind 1 0 127) (withPort idlePort))) =
      some (.refused 0x40 1 .exists_ 31) := by decide

/-- R147: a depth of 17 takes the next size up, 32. -/
theorem test_playout_depth :
    (after (exec (.playoutSet 1 31 17) base)).dir.settings.depth 31 = 32 := by decide

/-- R134: a falling table is refused with the entry that falls, from 1. -/
theorem test_level_set_falls :
    lastFrame (after (exec (.levelSet 1 [8, 16, 12, 48, 64, 96, 128, 192, 256, 384, 512, 768, 1024,
      1536, 2048]) base)) = some (.refused 0x50 1 .range 3) := by decide

/-- R38: a new box takes the lowest free index. -/
theorem test_box_assign :
    let t := after (exec (.boxAssign 1 [0x33, 0x33, 0x33] 1 1) base)
    (t.box 2).state = .active ∧ (t.box 2).cls = .staff ∧ (t.box 2).ext = [0x33, 0x33, 0x33] := by decide

/-- R54: a forward to a box that holds the recording already is refused with DUPLICATE. -/
theorem test_forward_duplicate :
    lastFrame (after (exec (.forward 1 (.index 0) 1 (.index 0) 0) base)) =
      some (.refused 0x19 1 .duplicate 0) := by decide

/-- A full queue on a recording of two blocks: the next frame lies in block 0, whose line is CLEAN, and no
line holds block 5, for which the wait queue holds `waits`. -/
def lookingAhead (waits : List WaitEntry) : State :=
  let q : Port :=
    { playing with
      level := some ⟨1, [{ segA with stop := 32 }], 0⟩, next := some (1, 8), lookahead := [0, 5]
      playout := (List.range 16).map fun n => ⟨1, n, silentFrame⟩ }
  { withPort q with
    dir := { base.dir with
      blocks := ⟨[(0, .chained 0 (some 5)), (5, .chained 0 none)]⟩
      recordings := ⟨[(0, { recordingOf 3 with frames := 32, blocks := 2, tail := 5 })]⟩ }
    cache := { Cache.cold with
      lines := ⟨[(0, ⟨.clean, some 0, false, []⟩)]⟩, pins := ⟨[(31, 0)]⟩, waitQueue := waits } }

/-- R149: after a DROPPED touch the second lookahead block is touched again at the next frame time, and it
is not where it waits in the wait queue. -/
theorem test_dropped_touch_repeated :
    (after (exec (.frameTime []) (lookingAhead []))).cache.lineOf 5 = some 1 ∧
    (after (exec (.frameTime []) (lookingAhead [⟨.touch false, 5, 30⟩]))).cache.lineOf 5 = none := by
  decide +kernel

/-- R149: the one block of a recording that is played twice in a row is one lookahead block (assumption
66). -/
theorem test_doubled_lookahead :
    let q : Port := { playing with level := some ⟨1, [segA, segA], 0⟩, next := some (1, 8) }
    (withPort q).lookaheadOf 31 = [0] := by decide

/-- R65, R142, R185: the limit in RECORDING INFO, at most 30,000 frames, takes 2 bytes. -/
theorem test_limit_two_bytes :
    [b2 30000, b4 0] <:+: { recordingOf 3 with limit := 30000, trimmed := 0 }.fields := by decide

/-- R140: PORT STATUS gives the trailing run behind the detector's state and class. -/
theorem test_trailing_run_readable :
    let s := withPort { idlePort with detector := { Detector.initial with trailing := 300, lastClass := 4 } }
    [b1 0, b1 4, b4 300] <:+: s.portFields 31 := by decide

end Sys2Proof.Tests
end

section
/-! PROOF. The retention test (spec/07, R110): when one entry expires, and which entries of a box do. -/

namespace Sys2Proof.Machine

/-- An entry without a state day never expires (R110). -/
theorem Entry.not_expires_of_undated {v : Entry} (p : Profile) (day : Nat) (hv : v.stateDay = none) :
    v.expires p day = false := by
  simp [Entry.expires, hv]

/-- The sweep's unsigned day difference is the difference modulo 65,536 of R110, on either side of the
wrap of the day count. -/
theorem dayDifference_cast {day d : Nat} (hd : d < 65536) :
    (((day + 65536 - d) % 65536 : Nat) : Int) = ((day : Int) - d) % 65536 := by
  omega

theorem Entry.expires_iff_of_dated {v : Entry} {d : Nat} (p : Profile) (day : Nat)
    (hv : v.stateDay = some d) (hd : d < 65536) :
    v.expires p day = true ↔
      0 < p.retention v.state ∧ (p.retention v.state : Int) ≤ ((day : Int) - d) % 65536 := by
  rw [← dayDifference_cast hd, Int.ofNat_le]
  simp [Entry.expires, hv]

/-- A listed entry is swept exactly when the test on the profile of the box's class expires it. -/
theorem State.mem_expiredOf_iff {s : State} {b e : Nat} {v : Entry} (day : Nat)
    (he : e ∈ (s.box b).messages) (hv : s.entry e = some v) :
    e ∈ s.expiredOf b day ↔ v.expires (s.dir.profiles.of (s.box b).cls) day = true := by
  have hprofile : s.dir.profile b = s.dir.profiles.of (s.box b).cls := rfl
  rw [← hprofile, State.expiredOf, List.mem_filter, hv, Option.any_some]
  exact and_iff_right he

/-- Settles O37: both halves read the sweep's list through `State.mem_expiredOf_iff`, then the test on
the one entry, undated or dated. -/
theorem expiryCountsDaysModulo : Obligations.ExpiryCountsDaysModulo := by
  unfold Obligations.ExpiryCountsDaysModulo
  rintro s b day e v p he hv rfl
  rw [State.mem_expiredOf_iff day he hv]
  constructor
  · intro hday
    simp [Entry.not_expires_of_undated _ day hday]
  · intro d r hday hd hr
    have hretention : r = (s.dir.profiles.of (s.box b).cls).retention v.state := hr
    rw [hretention]
    exact Entry.expires_iff_of_dated _ day hday hd

end Sys2Proof.Machine
end

section
/-! PROOF. Companding (spec/09, R131): the codes of one sign in order, and the largest one below a
magnitude. -/

namespace Sys2Proof.Machine

/-- The magnitude of the code with low seven bits `k`, continued past segment 7: segment `k / 16`, step
`k % 16`. Unlike `magnitudeOf` it rises on all of `Nat`. -/
def magnitudeAt (k : Nat) : Nat :=
  if k / 16 = 0 then 2 * (k % 16) else (16 + k % 16) * 2 ^ (k / 16)

theorem magnitudeOf_eq_magnitudeAt (c : Byte) : magnitudeOf c = magnitudeAt (c.toNat % 128) := by
  have hsegment : c.toNat % 128 / 16 = c.toNat / 16 % 8 := by omega
  have hstep : c.toNat % 128 % 16 = c.toNat % 16 := by omega
  simp only [magnitudeOf, magnitudeAt, hsegment, hstep]

/-- Consecutive codes are two apart in segments 0 and 1, and twice as far in each later segment; the
last code of a segment is followed by the first of the next at the same distance. -/
theorem magnitudeAt_succ (k : Nat) :
    magnitudeAt (k + 1) = magnitudeAt k + 2 ^ max 1 (k / 16) := by
  by_cases hlast : k % 16 = 15
  · have hsegment : (k + 1) / 16 = k / 16 + 1 := by omega
    have hstep : (k + 1) % 16 = 0 := by omega
    cases hk : k / 16 with
    | zero => simp [magnitudeAt, hsegment, hstep, hk, hlast]
    | succ s => simp [magnitudeAt, hsegment, hstep, hk, hlast, pow_succ]; omega
  · have hsegment : (k + 1) / 16 = k / 16 := by omega
    have hstep : (k + 1) % 16 = k % 16 + 1 := by omega
    cases hk : k / 16 with
    | zero => simp [magnitudeAt, hsegment, hstep, hk]; omega
    | succ s => simp [magnitudeAt, hsegment, hstep, hk]; ring

theorem magnitudeAt_strictMono : StrictMono magnitudeAt :=
  strictMono_nat_of_lt_succ fun k => by
    rw [magnitudeAt_succ]
    exact Nat.lt_add_of_pos_right (Nat.two_pow_pos _)

theorem magnitudeOf_le (c : Byte) : magnitudeOf c ≤ 3968 := by
  have hlast : magnitudeAt 127 = 3968 := by decide
  rw [magnitudeOf_eq_magnitudeAt, ← hlast]
  exact magnitudeAt_strictMono.monotone (by omega)

theorem magnitudeOf_lt_of_same_sign {c d : Byte} (hsign : c.toNat / 128 = d.toNat / 128)
    (hlt : c.toNat < d.toNat) : magnitudeOf c < magnitudeOf d := by
  rw [magnitudeOf_eq_magnitudeAt, magnitudeOf_eq_magnitudeAt]
  exact magnitudeAt_strictMono (by omega)

/-! ## The code that companding takes -/

theorem segmentFor_le (m n : Nat) : segmentFor m n ≤ n := by
  induction n with
  | zero => simp [segmentFor]
  | succ n ih => rw [segmentFor]; split <;> omega

theorem pow_segmentFor_le {m n : Nat} (h : segmentFor m n ≠ 0) : 16 * 2 ^ segmentFor m n ≤ m := by
  induction n with
  | zero => exact absurd rfl h
  | succ n ih =>
    rw [segmentFor] at h ⊢
    split at h
    case isTrue hle => rwa [if_pos hle]
    case isFalse hgt => rw [if_neg hgt]; exact ih h

theorem lt_pow_segmentFor_succ {m n : Nat} (h : segmentFor m n < n) :
    m < 16 * 2 ^ (segmentFor m n + 1) := by
  induction n with
  | zero => exact absurd h (Nat.not_lt_zero _)
  | succ n ih =>
    rw [segmentFor] at h ⊢
    split at h
    case isTrue => exact absurd h (Nat.lt_irrefl _)
    case isFalse hgt =>
      rw [if_neg hgt]
      obtain hlt | heq := (segmentFor_le m n).lt_or_eq
      · exact ih hlt
      · rw [heq]; exact Nat.lt_of_not_le hgt

/-- The step that companding takes in the segment it has chosen. -/
def compandedStep (m : Nat) : Nat :=
  if segmentFor m 7 = 0 then m / 2 else min 15 (m / 2 ^ segmentFor m 7 - 16)

/-- The low seven bits of the code that companding takes: its segment, then its step. -/
def compandedIndex (m : Nat) : Nat := 16 * segmentFor m 7 + compandedStep m

theorem compandedStep_le (m : Nat) : compandedStep m ≤ 15 := by
  rw [compandedStep]
  split
  case isTrue hzero =>
    have hm := lt_pow_segmentFor_succ (m := m) (n := 7) (by omega)
    rw [hzero] at hm
    omega
  case isFalse => exact Nat.min_le_left _ _

theorem compandedIndex_le (m : Nat) : compandedIndex m ≤ 127 := by
  have hsegment := segmentFor_le m 7
  have hstep := compandedStep_le m
  rw [compandedIndex]
  omega

theorem compand_toNat (positive : Bool) {m : Nat} (hm : m ≠ 0) :
    (compand positive m).toNat = (if positive then 128 else 0) + compandedIndex m := by
  have hindex := compandedIndex_le m
  have hcode : compand positive m =
      BitVec.ofNat 8 ((if positive then 128 else 0) + compandedIndex m) := by
    simp only [compand, hm, if_false, compandedIndex, compandedStep, Nat.add_assoc]
  rw [hcode, BitVec.toNat_ofNat, Nat.mod_eq_of_lt]
  split <;> omega

theorem le_toNat_compand_iff (positive : Bool) {m : Nat} (hm : m ≠ 0) :
    128 ≤ (compand positive m).toNat ↔ positive = true := by
  have hindex := compandedIndex_le m
  rw [compand_toNat positive hm]
  cases positive with
  | false => simp; omega
  | true => simp

theorem magnitudeOf_compand (positive : Bool) {m : Nat} (hm : m ≠ 0) :
    magnitudeOf (compand positive m) = magnitudeAt (compandedIndex m) := by
  have hindex := compandedIndex_le m
  have hlow : (compand positive m).toNat % 128 = compandedIndex m := by
    rw [compand_toNat positive hm]
    split <;> omega
  rw [magnitudeOf_eq_magnitudeAt, hlow]

theorem compandedIndex_div (m : Nat) : compandedIndex m / 16 = segmentFor m 7 := by
  have hstep := compandedStep_le m
  rw [compandedIndex]
  omega

theorem magnitudeAt_compandedIndex (m : Nat) :
    magnitudeAt (compandedIndex m) =
      if segmentFor m 7 = 0 then 2 * compandedStep m
      else (16 + compandedStep m) * 2 ^ segmentFor m 7 := by
  have hstep := compandedStep_le m
  have hlow : compandedIndex m % 16 = compandedStep m := by rw [compandedIndex]; omega
  rw [magnitudeAt, compandedIndex_div, hlow]

theorem magnitudeAt_compandedIndex_le (m : Nat) : magnitudeAt (compandedIndex m) ≤ m := by
  rw [magnitudeAt_compandedIndex, compandedStep]
  split
  case isTrue => omega
  case isFalse hsegment =>
    have hreach : 16 ≤ m / 2 ^ segmentFor m 7 :=
      (Nat.le_div_iff_mul_le (Nat.two_pow_pos _)).mpr (pow_segmentFor_le hsegment)
    calc (16 + min 15 (m / 2 ^ segmentFor m 7 - 16)) * 2 ^ segmentFor m 7
        ≤ m / 2 ^ segmentFor m 7 * 2 ^ segmentFor m 7 := Nat.mul_le_mul_right _ (by omega)
      _ ≤ m := Nat.div_mul_le_self _ _

/-- The minimum in the step takes effect in the last step of segment 7 only. -/
theorem div_pow_lt_of_compandedIndex_lt {m : Nat} (h : compandedIndex m < 127)
    (hsegment : segmentFor m 7 ≠ 0) : m / 2 ^ segmentFor m 7 < 17 + compandedStep m := by
  have hle := segmentFor_le m 7
  have hstep : compandedStep m = min 15 (m / 2 ^ segmentFor m 7 - 16) := if_neg hsegment
  obtain hlt | hseven := hle.lt_or_eq
  · have hm : m < 32 * 2 ^ segmentFor m 7 := by
      have := lt_pow_segmentFor_succ hlt
      rw [pow_succ] at this
      omega
    have hquotient := (Nat.div_lt_iff_lt_mul (Nat.two_pow_pos _)).mpr hm
    omega
  · rw [compandedIndex] at h
    omega

theorem lt_magnitudeAt_compandedIndex_succ {m : Nat} (h : compandedIndex m < 127) :
    m < magnitudeAt (compandedIndex m + 1) := by
  rw [magnitudeAt_succ, compandedIndex_div, magnitudeAt_compandedIndex]
  split
  case isTrue hzero =>
    have hstep : compandedStep m = m / 2 := if_pos hzero
    rw [hzero, hstep, Nat.max_eq_left (by omega)]
    omega
  case isFalse hsegment =>
    rw [Nat.max_eq_right (by omega), ← Nat.succ_mul]
    refine (Nat.div_lt_iff_lt_mul (Nat.two_pow_pos _)).mp ?_
    have := div_pow_lt_of_compandedIndex_lt h hsegment
    omega

/-- No code of seven bits above the companded one has a magnitude at or below the given one. -/
theorem le_compandedIndex {m k : Nat} (hk : k ≤ 127) (hle : magnitudeAt k ≤ m) :
    k ≤ compandedIndex m := by
  by_contra hgt
  have hnext : magnitudeAt (compandedIndex m + 1) ≤ magnitudeAt k :=
    magnitudeAt_strictMono.monotone (by omega)
  have hm := lt_magnitudeAt_compandedIndex_succ (m := m) (by omega)
  omega

theorem magnitudeOf_compand_le (positive : Bool) {m : Nat} (hm : m ≠ 0) :
    magnitudeOf (compand positive m) ≤ m := by
  rw [magnitudeOf_compand positive hm]
  exact magnitudeAt_compandedIndex_le m

theorem magnitudeOf_le_magnitudeOf_compand (positive : Bool) {m : Nat} (hm : m ≠ 0) {c : Byte}
    (hle : magnitudeOf c ≤ m) : magnitudeOf c ≤ magnitudeOf (compand positive m) := by
  rw [magnitudeOf_eq_magnitudeAt] at hle ⊢
  rw [magnitudeOf_compand positive hm]
  exact magnitudeAt_strictMono.monotone (le_compandedIndex (by omega) hle)

end Sys2Proof.Machine
end

section
/-! PROOF. The COMPACT code (spec/09, R132): two-bit codes in bytes, the coder's states along a frame,
and the code the encoder takes at each sample. -/

namespace Sys2Proof.Machine

/-! ## Codes in bytes -/

theorem length_flatMap_codesOf (bs : List Byte) : (bs.flatMap codesOf).length = 4 * bs.length := by
  simp [List.length_flatMap, codesOf, Nat.mul_comm]

/-- Code `i` lies in byte `i / 4`, from bits 7 and 6 on. -/
theorem getD_flatMap_codesOf (bs : List Byte) (i : Nat) :
    (bs.flatMap codesOf).getD i 0 = (bs.getD (i / 4) 0).toNat / 4 ^ (3 - i % 4) % 4 := by
  induction bs generalizing i with
  | nil => simp
  | cons b bs ih =>
    match i with
    | 0 | 1 | 2 | 3 => simp [codesOf]
    | j + 4 =>
      have hbyte : (j + 4) / 4 = j / 4 + 1 := by omega
      have hplace : (j + 4) % 4 = j % 4 := by omega
      rw [hbyte, hplace, List.getD_cons_succ, ← ih j]
      rfl

theorem codesOf_ofNat {a b c d : Nat} (ha : a < 4) (hb : b < 4) (hc : c < 4) (hd : d < 4) :
    codesOf (BitVec.ofNat 8 (64 * a + 16 * b + 4 * c + d)) = [a, b, c, d] := by
  have hbyte : (64 * a + 16 * b + 4 * c + d) % 2 ^ 8 = 64 * a + 16 * b + 4 * c + d :=
    Nat.mod_eq_of_lt (by omega)
  simp only [codesOf, BitVec.toNat_ofNat, hbyte, List.cons.injEq, and_true]
  omega

/-- Packing whole bytes of codes loses none of them. -/
theorem flatMap_codesOf_packCodes {n : Nat} {codes : List Nat} (hlen : codes.length = 4 * n)
    (hcodes : ∀ c ∈ codes, c < 4) : (packCodes codes).flatMap codesOf = codes := by
  induction n generalizing codes with
  | zero =>
    obtain rfl := List.eq_nil_of_length_eq_zero hlen
    rfl
  | succ n ih =>
    match codes, hlen with
    | a :: b :: c :: d :: rest, hlen =>
      simp only [List.forall_mem_cons] at hcodes
      obtain ⟨ha, hb, hc, hd, hrest⟩ := hcodes
      have htail : rest.length = 4 * n := by simp only [List.length_cons] at hlen; omega
      rw [packCodes, List.flatMap_cons, codesOf_ofNat ha hb hc hd, ih htail hrest]
      rfl

/-! ## The coder along a run of codes -/

theorem CoderState.next_prediction (st : CoderState) (code : Nat) :
    (st.next code).prediction = clampPrediction
      (if code = 0 then st.prediction else if code = 1 then st.prediction + st.step
        else if code = 2 then st.prediction - st.step else 0) := by
  match code with
  | 0 | 1 | 2 | n + 3 => simp [CoderState.next]

theorem CoderState.next_step (st : CoderState) (code : Nat) :
    (st.next code).step =
      if code = 0 ∨ code = 3 then max 8 (st.step / 2) else min 1024 (2 * st.step) := rfl

/-- The coder's state after a run of codes. -/
def CoderState.along (st : CoderState) (codes : List Nat) : CoderState :=
  codes.foldl CoderState.next st

theorem CoderState.along_cons (st : CoderState) (c : Nat) (codes : List Nat) :
    st.along (c :: codes) = (st.next c).along codes := rfl

theorem CoderState.along_take_succ (st : CoderState) {codes : List Nat} {i : Nat}
    (hi : i < codes.length) :
    st.along (codes.take (i + 1)) = (st.along (codes.take i)).next (codes.getD i 0) := by
  rw [List.take_succ_eq_append_getElem hi, List.getD_eq_getElem _ _ hi]
  exact List.foldl_append

theorem length_decodeCodes (st : CoderState) (codes : List Nat) :
    (decodeCodes st codes).length = codes.length := by
  induction codes generalizing st with
  | nil => rfl
  | cons c codes ih => simp [decodeCodes, ih]

/-- Decoding emits, at each code, the companded prediction of the state that the code leads to. -/
theorem getElem?_decodeCodes (st : CoderState) {codes : List Nat} {i : Nat} (hi : i < codes.length) :
    (decodeCodes st codes)[i]? =
      some (compandSigned (st.along (codes.take (i + 1))).prediction) := by
  induction codes generalizing st i with
  | nil => exact absurd hi (Nat.not_lt_zero _)
  | cons c codes ih =>
    rw [decodeCodes, List.take_succ_cons, CoderState.along_cons]
    cases i with
    | zero => rfl
    | succ j => exact ih (st.next c) (Nat.lt_of_succ_lt_succ hi)

/-- Code 0 keeps a prediction of 0, whatever the step. -/
theorem decodeCodes_replicate_zero {st : CoderState} (hst : st.prediction = 0) (n : Nat) :
    decodeCodes st (List.replicate n 0) = List.replicate n silentSample := by
  induction n generalizing st with
  | zero => rfl
  | succ n ih =>
    have hnext : (st.next 0).prediction = 0 := by
      rw [CoderState.next_prediction, if_pos rfl, hst]
      rfl
    rw [List.replicate_succ, List.replicate_succ, decodeCodes, ih hnext, hnext]
    rfl

theorem decode_compact_zero :
    Coding.compact.decode (List.replicate 40 0x00) = silentFrame := by
  have hcodes : (List.replicate 40 (0x00 : Byte)).flatMap codesOf = List.replicate 160 0 := by
    have hbyte : codesOf 0x00 = List.replicate 4 0 := rfl
    rw [List.flatMap_replicate, hbyte, List.flatten_replicate_replicate]
  rw [Coding.decode, hcodes]
  exact decodeCodes_replicate_zero rfl 160

/-! ## The code that the encoder takes -/

/-- `a` is the lowest of the codes below `n` whose distance is least. -/
def LowestNearest (d : Nat → Nat) (n a : Nat) : Prop :=
  a < n ∧ ∀ c < n, d a ≤ d c ∧ (c < a → d a < d c)

/-- The encoder's choice between the code held and the next one keeps the lowest nearest code. -/
theorem LowestNearest.pick {d : Nat → Nat} {n a : Nat} (h : LowestNearest d n a) :
    LowestNearest d (n + 1) (if d n < d a then n else a) := by
  obtain ⟨hlt, hnearest⟩ := h
  split
  case isTrue hcloser =>
    refine ⟨Nat.lt_succ_self n, fun c hc => ?_⟩
    obtain hold | rfl := Nat.lt_succ_iff_lt_or_eq.mp hc
    · have := (hnearest c hold).1
      omega
    · omega
  case isFalse hfarther =>
    refine ⟨by omega, fun c hc => ?_⟩
    obtain hold | rfl := Nat.lt_succ_iff_lt_or_eq.mp hc
    · exact hnearest c hold
    · omega

theorem bestCode_lowestNearest (st : CoderState) (v : Int) :
    LowestNearest (fun c => ((st.next c).prediction - v).natAbs) 4 (bestCode st v) := by
  have hzero : LowestNearest (fun c => ((st.next c).prediction - v).natAbs) 1 0 :=
    ⟨Nat.one_pos, fun c hc => by obtain rfl := Nat.lt_one_iff.mp hc; simp⟩
  exact hzero.pick.pick.pick

theorem length_encodeSamples (st : CoderState) (f : List Byte) :
    (encodeSamples st f).length = f.length := by
  induction f generalizing st with
  | nil => rfl
  | cons x f ih => simp [encodeSamples, ih]

/-- The encoder's own state at a sample is the decoder's after the codes it has emitted. -/
theorem getD_encodeSamples (st : CoderState) {f : List Byte} {i : Nat} (hi : i < f.length) :
    (encodeSamples st f).getD i 0 =
      bestCode (st.along ((encodeSamples st f).take i)) (signedOf (f.getD i 0)) := by
  induction f generalizing st i with
  | nil => exact absurd hi (Nat.not_lt_zero _)
  | cons x f ih =>
    cases i with
    | zero => rfl
    | succ j => exact ih _ (Nat.lt_of_succ_lt_succ hi)

theorem lt_four_of_mem_encodeSamples {st : CoderState} {f : List Byte} :
    ∀ c ∈ encodeSamples st f, c < 4 := by
  induction f generalizing st with
  | nil => simp [encodeSamples]
  | cons x f ih =>
    rw [encodeSamples, List.forall_mem_cons]
    exact ⟨(bestCode_lowestNearest st _).1, ih⟩

theorem flatMap_codesOf_encode {n : Nat} {f : Frame} (hf : f.length = 4 * n) :
    (Coding.compact.encode f).flatMap codesOf = encodeSamples CoderState.fresh f :=
  flatMap_codesOf_packCodes ((length_encodeSamples _ f).trans hf) lt_four_of_mem_encodeSamples

theorem length_encode_compact {n : Nat} {f : Frame} (hf : f.length = 4 * n) :
    (Coding.compact.encode f).length = n := by
  have hcodes := length_flatMap_codesOf (Coding.compact.encode f)
  rw [flatMap_codesOf_encode hf, length_encodeSamples] at hcodes
  omega

theorem length_decode_compact (bs : List Byte) :
    (Coding.compact.decode bs).length = 4 * bs.length :=
  (length_decodeCodes _ _).trans (length_flatMap_codesOf bs)

/-! ## A stored frame -/

/-- Code `i` of a stored frame. -/
def storedCode (bs : List Byte) (i : Nat) : Nat := (bs.flatMap codesOf).getD i 0

/-- The coder's state before code `i` of a stored frame. -/
def storedState (bs : List Byte) (i : Nat) : CoderState :=
  CoderState.fresh.along ((bs.flatMap codesOf).take i)

theorem storedState_succ {bs : List Byte} {i : Nat} (hi : i < 4 * bs.length) :
    storedState bs (i + 1) = (storedState bs i).next (storedCode bs i) :=
  CoderState.along_take_succ _ (by rwa [length_flatMap_codesOf])

theorem getElem?_decode_compact {bs : List Byte} {i : Nat} (hi : i < 4 * bs.length) :
    (Coding.compact.decode bs)[i]? = some (compandSigned (storedState bs (i + 1)).prediction) :=
  getElem?_decodeCodes _ (by rwa [length_flatMap_codesOf])

/-- The code stored for a sample is the lowest of those whose prediction is nearest to its value. -/
theorem storedCode_encode_lowestNearest {n i : Nat} {f : Frame} (hf : f.length = 4 * n)
    (hi : i < f.length) :
    LowestNearest
      (fun c => (((storedState (Coding.compact.encode f) i).next c).prediction
        - signedOf (f.getD i 0)).natAbs)
      4 (storedCode (Coding.compact.encode f) i) := by
  rw [storedCode, storedState, flatMap_codesOf_encode hf, getD_encodeSamples _ hi]
  exact bestCode_lowestNearest _ _

/-- Settles O50: companding by the order of the codes of one sign, and the two directions of COMPACT by
the coder's states along the codes of the stored bytes. -/
theorem compandingTakesLargestBelow : Obligations.CompandingTakesLargestBelow := by
  unfold Obligations.CompandingTakesLargestBelow
  refine ⟨fun c => ⟨rfl, magnitudeOf_le c, by simp [signedOf, isPositive]⟩, ⟨0x7F, by decide⟩,
    fun c d => magnitudeOf_lt_of_same_sign, by decide, by decide, fun _ => rfl,
    fun positive m hm => ⟨le_toNat_compand_iff positive hm, magnitudeOf_compand_le positive hm,
      fun c _ => magnitudeOf_le_magnitudeOf_compand positive hm⟩,
    ⟨List.length_replicate, fun c => List.eq_of_mem_replicate⟩, fun f => ⟨rfl, rfl⟩,
    decode_compact_zero, fun candidate onward hcandidate honward => ?_⟩
  have hprediction (bs : List Byte) {i : Nat} (hi : i < 4 * bs.length) :
      (storedState bs (i + 1)).prediction =
        candidate (storedState bs i).prediction (storedState bs i).step (storedCode bs i) := by
    rw [hcandidate, storedState_succ hi, CoderState.next_prediction, clampPrediction]
  have hstep (bs : List Byte) {i : Nat} (hi : i < 4 * bs.length) :
      (storedState bs (i + 1)).step = onward (storedState bs i).step (storedCode bs i) := by
    rw [honward, storedState_succ hi, CoderState.next_step]
  constructor
  · intro bs hbs
    refine ⟨by rw [length_decode_compact, hbs], fun i => (storedState bs i).prediction,
      fun i => (storedState bs i).step, storedCode bs, rfl, rfl, fun i hi => ?_⟩
    have hi : i < 4 * bs.length := by omega
    exact ⟨getD_flatMap_codesOf bs i, hprediction bs hi, hstep bs hi, getElem?_decode_compact hi⟩
  · intro f hf
    have hlen : (Coding.compact.encode f).length = 40 := length_encode_compact hf
    refine ⟨hlen, fun i => (storedState (Coding.compact.encode f) i).prediction,
      fun i => (storedState (Coding.compact.encode f) i).step,
      storedCode (Coding.compact.encode f), rfl, rfl, fun i hi => ?_⟩
    have hstored : i < 4 * (Coding.compact.encode f).length := by omega
    refine ⟨getD_flatMap_codesOf _ i, hprediction _ hstored, hstep _ hstored, ?_⟩
    rintro v c rfl hc
    have hnearest := storedCode_encode_lowestNearest (n := 40) hf (hf ▸ hi)
    simp only [CoderState.next_prediction, clampPrediction, ← hcandidate] at hnearest
    exact hnearest.2 c hc

end Sys2Proof.Machine
end

section
/-! PROOF. The wanted cadence (spec/11, R160): the source condition, the full box, and the cadence of
each of the four cases. -/

namespace Sys2Proof.Machine

/-! ## The source condition (R159) -/

@[simp] theorem LampSource.lit_off (x : Box) : LampSource.off.lit x = false := rfl

@[simp] theorem LampSource.lit_new (x : Box) :
    LampSource.new.lit x = true ↔ 0 < x.newCount := decide_eq_true_iff

@[simp] theorem LampSource.lit_urgent (x : Box) :
    LampSource.urgent.lit x = true ↔ 0 < x.urgentNew := decide_eq_true_iff

@[simp] theorem LampSource.lit_any (x : Box) :
    LampSource.any.lit x = true ↔ 0 < x.messages.length := decide_eq_true_iff

/-! ## The four cases (R160) -/

/-- A box is full for its lamp by count, or by fewer than the 250 frames of `Config.shortFrames`
remaining (R63, R160). -/
theorem Directory.lampFull_iff (d : Directory) (b : Nat) :
    d.lampFull b = true ↔
      (d.profile b).maxMessages ≤ (d.box b).messages.length ∨ d.remaining b < 250 := by
  rw [Directory.lampFull, Bool.or_eq_true, decide_eq_true_iff, decide_eq_true_iff]
  rfl

theorem Directory.lampFull_eq_false_iff (d : Directory) (b : Nat) :
    d.lampFull b = false ↔
      (d.box b).messages.length < (d.profile b).maxMessages ∧ 250 ≤ d.remaining b := by
  rw [← Bool.not_eq_true, d.lampFull_iff, not_or, not_le, not_lt]

section
variable {d : Directory} {b : Nat} {src : LampSource}

theorem Directory.wanted_eq_dark
    (h : (d.box b).state = .unassigned ∨ ¬ src.lit (d.box b) = true) : d.wanted b src = .dark :=
  if_pos (by rwa [Bool.not_eq_true] at h)

/-- Past the first case the cadence no longer looks at the source. -/
theorem Directory.wanted_of_lit (hassigned : (d.box b).state ≠ .unassigned)
    (hlit : src.lit (d.box b) = true) :
    d.wanted b src =
      if 0 < (d.box b).urgentNew ∧ d.settings.fastForUrgent = true then .fast
      else if d.lampFull b = true then .slow else .steady :=
  if_neg (by simp [hassigned, hlit])

theorem Directory.wanted_eq_fast (hassigned : (d.box b).state ≠ .unassigned)
    (hlit : src.lit (d.box b) = true) (hurgent : 0 < (d.box b).urgentNew)
    (hfast : d.settings.fastForUrgent = true) : d.wanted b src = .fast := by
  rw [Directory.wanted_of_lit hassigned hlit, if_pos ⟨hurgent, hfast⟩]

/-- Past the second case only the full box decides. -/
theorem Directory.wanted_of_not_fast (hassigned : (d.box b).state ≠ .unassigned)
    (hlit : src.lit (d.box b) = true)
    (hfast : (d.box b).urgentNew = 0 ∨ d.settings.fastForUrgent = false) :
    d.wanted b src = if d.lampFull b = true then .slow else .steady := by
  rw [Directory.wanted_of_lit hassigned hlit, if_neg]
  rintro ⟨hurgent, hon⟩
  rcases hfast with hnone | hoff
  · omega
  · simp [hon] at hoff

end

/-- Settles O30: the source condition is read as `LampSource.lit`, then one lemma per case of R160. -/
theorem wantedCadenceFollowsBox : Obligations.WantedCadenceFollowsBox := by
  unfold Obligations.WantedCadenceFollowsBox
  intro d b src lit hsource
  have hlit : lit ↔ src.lit (d.box b) = true := by
    cases src with
    | off => simpa using hsource
    | new => simpa using hsource
    | urgent => simpa using hsource
    | any => simpa using hsource
  rw [hlit]
  refine ⟨Directory.wanted_eq_dark, fun hassigned hlit =>
    ⟨Directory.wanted_eq_fast hassigned hlit, fun hfast => ?_⟩⟩
  rw [Directory.wanted_of_not_fast hassigned hlit hfast]
  exact ⟨fun hfull => if_pos ((d.lampFull_iff b).mpr hfull), fun hcount hframes =>
    if_neg (by simp [(d.lampFull_eq_false_iff b).mpr ⟨hcount, hframes⟩])⟩

end Sys2Proof.Machine
end
